-- ==== Sys2Proof/Word.lean ====
section
/-! DEFINITION. The word types of the machine: one width, 16 bits, for registers, cells, addresses and
instruction words (00_scope.md R4, R6), and the byte of the two channels (10_state.md R30). -/

namespace Sys2Proof

/-- A 16-bit word: register, cell, address, instruction (`XLEN`, 00_scope.md R4). `+` on it is `+16` (R6). -/
abbrev Word := BitVec 16

/-- A byte of the input or output channel, 0..255 (10_state.md R30). -/
abbrev Byte := BitVec 8

/-- A 3-bit register field: its value `i` names R`i`, and all eight values are legal (30_encoding.md R85). -/
abbrev Reg := BitVec 3

end Sys2Proof
end

