-- ==== Sys2Proof/Config.lean ====
section
/-! DEFINITION. The implementation parameters of 00_scope.md R4 as one record type. The values in force are
`Sys2Proof.config` of Sys2Proof/Machine/Params.lean. -/

namespace Sys2Proof

/-- The 16 opcode tags, one per value of bits 15:12 (30_encoding.md R71): 14 with semantics, RTI and RES without. -/
inductive Tag where
  | br | add | ld | st | jsr | and | ldr | str | rti | not | ldi | sti | jmp | res | lea | trap
deriving DecidableEq, Repr

/-- The six built-in services of TRAP (30_encoding.md R88). -/
inductive Service where
  | getc | out | puts | inChar | putsp | halt
deriving DecidableEq, Repr

/-- `IN_EOF_POLICY`: what a request at the end of the input answers (10_state.md R31, R32; D11). -/
inductive EofPolicy where
  /-- The end of input answers `Error` (fatal, cause InputError). -/
  | error
  /-- The end of input is "no byte ever arrives": a poll finds none, a blocking read waits for ever. -/
  | block
deriving DecidableEq, Repr

/-- The parameters of 00_scope.md R4 that the source does not fix. -/
structure Config where
  /-- `OPMAP`: the tag of each value of bits 15:12 (30_encoding.md R72). Total: stage one never fails (R71, C1). -/
  opMap : BitVec 4 → Tag
  /-- `OPMAP` read the other way, for the encoder. -/
  opCode : Tag → BitVec 4
  /-- `TRAPMAP`: the service of a vector, none for an unknown one (30_encoding.md R88). -/
  trapMap : BitVec 8 → Option Service
  /-- `TRAPMAP` read the other way, for the encoder. -/
  trapVector : Service → BitVec 8
  /-- The value of bit 5 that selects the immediate form of ADD and AND (30_encoding.md R75). -/
  immBit : Bool
  /-- The value of bit 11 that selects the offset form, JSR (30_encoding.md R79). -/
  offsetBit : Bool
  /-- `PC_START`: PC after reset (70_reset_and_hazards.md R202). -/
  pcStart : Word
  /-- `KBSR_ADDR`: address of the keyboard-status cell (10_state.md R25). -/
  kbsrAddr : Word
  /-- `KBDR_ADDR`: address of the keyboard-data cell (10_state.md R26); independent of the other (20_memory.md R53). -/
  kbdrAddr : Word
  /-- `HALT_LINKS`: whether HALT writes R7 before it stops (44_trap.md R162, C3). -/
  haltLinks : Bool
  /-- `TRAP_IN_SETS_FLAGS`: whether GETC and IN recompute COND from R0 (44_trap.md R157, C5). -/
  trapInSetsFlags : Bool
  /-- `IN_PROMPT`: the bytes IN writes before it reads (44_trap.md R160). -/
  inPrompt : List Byte
  /-- `IN_EOF_POLICY` (10_state.md R31, R32). -/
  inEofPolicy : EofPolicy

end Sys2Proof
end

