-- ==== Sys2Proof/Machine/Params.lean ====
section
/-! DEFINITION. The values of the parameters in force: the defaults of 00_scope.md R4. They stand in this file, not in
Config.lean, because several of them are the spec's own general knowledge of the LC-3 (93_implementation_defined.md
G1, G2, G4, G5, G6) and a test of the hardware could show one wrong. -/

namespace Sys2Proof

/-- PRESUMED (log 1): the opcode numbers of 30_encoding.md R72. -/
def opMapDefault (op : BitVec 4) : Tag :=
  match op.toNat with
  | 0x0 => .br
  | 0x1 => .add
  | 0x2 => .ld
  | 0x3 => .st
  | 0x4 => .jsr
  | 0x5 => .and
  | 0x6 => .ldr
  | 0x7 => .str
  | 0x8 => .rti
  | 0x9 => .not
  | 0xA => .ldi
  | 0xB => .sti
  | 0xC => .jmp
  | 0xD => .res
  | 0xE => .lea
  | _ => .trap

/-- PRESUMED (log 1): 30_encoding.md R72 read from tag to number. -/
def opCodeDefault : Tag → BitVec 4
  | .br => 0x0#4
  | .add => 0x1#4
  | .ld => 0x2#4
  | .st => 0x3#4
  | .jsr => 0x4#4
  | .and => 0x5#4
  | .ldr => 0x6#4
  | .str => 0x7#4
  | .rti => 0x8#4
  | .not => 0x9#4
  | .ldi => 0xA#4
  | .sti => 0xB#4
  | .jmp => 0xC#4
  | .res => 0xD#4
  | .lea => 0xE#4
  | .trap => 0xF#4

/-- PRESUMED (log 3): the trap vector numbers of 30_encoding.md R88. The vector is compared as an unsigned 8-bit number
(44_trap.md R156). -/
def trapMapDefault (v : BitVec 8) : Option Service :=
  match v.toNat with
  | 0x20 => some .getc
  | 0x21 => some .out
  | 0x22 => some .puts
  | 0x23 => some .inChar
  | 0x24 => some .putsp
  | 0x25 => some .halt
  | _ => none

/-- PRESUMED (log 3): 30_encoding.md R88 read from service to vector. -/
def trapVectorDefault : Service → BitVec 8
  | .getc => 0x20#8
  | .out => 0x21#8
  | .puts => 0x22#8
  | .inChar => 0x23#8
  | .putsp => 0x24#8
  | .halt => 0x25#8

/-- PRESUMED (log 8): the 19 bytes of `Enter a character: `, as 44_trap.md R160 writes them out. -/
def inPromptDefault : List Byte :=
  [0x45#8, 0x6E#8, 0x74#8, 0x65#8, 0x72#8, 0x20#8, 0x61#8, 0x20#8, 0x63#8, 0x68#8,
   0x61#8, 0x72#8, 0x61#8, 0x63#8, 0x74#8, 0x65#8, 0x72#8, 0x3A#8, 0x20#8]

/-- The parameters in force (00_scope.md R4, column "value"). PRESUMED: logs 1, 2, 3, 4, 8. DESIGN CHOICE of the spec:
logs 5, 6, 7, 9. -/
def config : Config where
  opMap := opMapDefault
  opCode := opCodeDefault
  trapMap := trapMapDefault
  trapVector := trapVectorDefault
  immBit := true
  offsetBit := true
  pcStart := 0x3000#16
  kbsrAddr := 0xFE00#16
  kbdrAddr := 0xFE02#16
  haltLinks := false
  trapInSetsFlags := false
  inPrompt := inPromptDefault
  inEofPolicy := .error

end Sys2Proof
end

