-- ==== Sys2Proof/Syntax.lean ====
section
/-! DEFINITION. The instructions: one constructor per row of spec/opcode_table.json. Each carries "only the operand fields
relevant to its bit layout" (40_instruction_cycle.md R103), unextended as they are cut from the word (00_scope.md R9);
the bits no field covers are not carried (30_encoding.md R86). -/

namespace Sys2Proof

/-- The instructions. Field names are those of 00_scope.md R9. -/
inductive Instr where
  /-- ADD, register form (41_arithmetic_logic.md R121). -/
  | addReg (dr sr1 sr2 : Reg)
  /-- ADD, immediate form (R122). -/
  | addImm (dr sr1 : Reg) (imm5 : BitVec 5)
  /-- AND, register form (R123). -/
  | andReg (dr sr1 sr2 : Reg)
  /-- AND, immediate form (R124). -/
  | andImm (dr sr1 : Reg) (imm5 : BitVec 5)
  /-- NOT (R125). -/
  | not (dr sr : Reg)
  /-- BR with its three condition bits (42_control_transfer.md R131). -/
  | br (n z p : Bool) (off9 : BitVec 9)
  /-- JMP (R132). -/
  | jmp (baseR : Reg)
  /-- RET, the words of JMP with base register 7 (R133); its own row of the table, "matched before JMP". -/
  | ret
  /-- JSR, PC-relative form (R134). -/
  | jsr (off11 : BitVec 11)
  /-- JSRR, register form (R135). -/
  | jsrr (baseR : Reg)
  /-- LD (43_load_store.md R141). -/
  | ld (dr : Reg) (off9 : BitVec 9)
  /-- LDI (R142). -/
  | ldi (dr : Reg) (off9 : BitVec 9)
  /-- LDR (R143). -/
  | ldr (dr baseR : Reg) (off6 : BitVec 6)
  /-- LEA (R144). -/
  | lea (dr : Reg) (off9 : BitVec 9)
  /-- ST (R145). -/
  | st (sr : Reg) (off9 : BitVec 9)
  /-- STI (R146). -/
  | sti (sr : Reg) (off9 : BitVec 9)
  /-- STR (R147). -/
  | str (sr baseR : Reg) (off6 : BitVec 6)
  /-- TRAP service GETC (44_trap.md R157). -/
  | getc
  /-- TRAP service OUT (R158). -/
  | out
  /-- TRAP service PUTS (R159). -/
  | puts
  /-- TRAP service IN (R160). -/
  | inChar
  /-- TRAP service PUTSP (R161). -/
  | putsp
  /-- TRAP service HALT, the halt-signal of decode (R162). -/
  | halt
  /-- TRAP with a vector that is no service (R163). -/
  | trap (vect8 : BitVec 8)
  /-- A word with the reserved opcode RTI (60_exceptions.md R182). -/
  | rti
  /-- A word with the reserved opcode RES (R182). -/
  | res
deriving DecidableEq, Repr

end Sys2Proof
end

