-- ==== Sys2Proof/WellFormed.lean ====
section
/-! DEFINITION. Which instruction terms are the reading of a word. Every field value is legal (30_encoding.md R85); the two
checks keep each word with the one row of the opcode table that matches it first. -/

namespace Sys2Proof

/-- A term is well formed when some word decodes to it. `jmp 7` is not: its words are RET's row ("matched before JMP",
log 11). `trap v` is not when `v` is one of the six service vectors (row TRAP: "matches only when none of the six service
rows matches"). -/
def Instr.wf : Instr → Bool
  | .jmp baseR => baseR != 7#3
  | .trap vect8 => (config.trapMap vect8).isNone
  | .addReg _ _ _ | .addImm _ _ _ | .andReg _ _ _ | .andImm _ _ _ | .not _ _ => true
  | .br _ _ _ _ | .ret | .jsr _ | .jsrr _ => true
  | .ld _ _ | .ldi _ _ | .ldr _ _ _ | .lea _ _ | .st _ _ | .sti _ _ | .str _ _ _ => true
  | .getc | .out | .puts | .inChar | .putsp | .halt | .rti | .res => true

/-- Well-formedness as a proposition. -/
abbrev Instr.WellFormed (i : Instr) : Prop := i.wf = true

end Sys2Proof
end

