-- ==== Sys2Proof/Decode.lean ====
section
/-! DEFINITION. The decoder (30_encoding.md R70 to R91, 40_instruction_cycle.md R103, R104), total on all 65536 words, and
the encoder (R93, R96), both written from the format tables R74 to R83. -/

namespace Sys2Proof

/-- `w[lo+n-1 : lo]`, the field of width `n` whose lowest bit is bit `lo` (00_scope.md R5). -/
def field (w : Word) (lo n : Nat) : BitVec n := w.extractLsb' lo n

/-- Stage one of decoding: the tag in bits 15:12 (30_encoding.md R71). Total, never a failure (C1). -/
def tagOf (ir : Word) : Tag := config.opMap (field ir 12 4)

/-- Stage two, the TRAP decoder: the service of the vector, or the unknown vector itself (44_trap.md R156). -/
def decodeTrap (vect8 : BitVec 8) : Instr :=
  match config.trapMap vect8 with
  | some .getc => .getc
  | some .out => .out
  | some .puts => .puts
  | some .inChar => .inChar
  | some .putsp => .putsp
  | some .halt => .halt
  | none => .trap vect8

/-- The decode function (40_instruction_cycle.md R104). The reserved opcodes and the unknown vectors are constructors of
their own, which `decodeResult` tells apart from the executed instructions. Bits no field covers are not looked at
(30_encoding.md R86, log 21). -/
def decode (ir : Word) : Instr :=
  match tagOf ir with
  | .add =>
    if ir.getLsbD 5 = config.immBit then .addImm (field ir 9 3) (field ir 6 3) (field ir 0 5)
    else .addReg (field ir 9 3) (field ir 6 3) (field ir 0 3)
  | .and =>
    if ir.getLsbD 5 = config.immBit then .andImm (field ir 9 3) (field ir 6 3) (field ir 0 5)
    else .andReg (field ir 9 3) (field ir 6 3) (field ir 0 3)
  | .not => .not (field ir 9 3) (field ir 6 3)
  | .br => .br (ir.getLsbD 11) (ir.getLsbD 10) (ir.getLsbD 9) (field ir 0 9)
  | .jmp => if field ir 6 3 = 7#3 then .ret else .jmp (field ir 6 3)
  | .jsr => if ir.getLsbD 11 = config.offsetBit then .jsr (field ir 0 11) else .jsrr (field ir 6 3)
  | .ld => .ld (field ir 9 3) (field ir 0 9)
  | .ldi => .ldi (field ir 9 3) (field ir 0 9)
  | .ldr => .ldr (field ir 9 3) (field ir 6 3) (field ir 0 6)
  | .lea => .lea (field ir 9 3) (field ir 0 9)
  | .st => .st (field ir 9 3) (field ir 0 9)
  | .sti => .sti (field ir 9 3) (field ir 0 9)
  | .str => .str (field ir 9 3) (field ir 6 3) (field ir 0 6)
  | .trap => decodeTrap (field ir 0 8)
  | .rti => .rti
  | .res => .res

/-- Why a word is no instruction (40_instruction_cycle.md R104). -/
inductive DecodeError where
  /-- Opcode RTI or RES (30_encoding.md R87). -/
  | reservedOpcode
  /-- A TRAP whose vector is not one of the six (R88). -/
  | invalidTrapVector
deriving DecidableEq, Repr

/-- What decoding a word gives (40_instruction_cycle.md R103). -/
inductive DecodeResult where
  /-- An instruction to execute. -/
  | instr (i : Instr)
  /-- The halt-signal: a TRAP whose vector is HALT (R105). -/
  | haltSignal
  /-- A fatal decode error (R106). -/
  | decodeError (e : DecodeError)
deriving DecidableEq, Repr

/-- The three kinds of R103, read off the decoded term. -/
def classify (i : Instr) : DecodeResult :=
  match i with
  | .halt => .haltSignal
  | .trap _ => .decodeError .invalidTrapVector
  | .rti => .decodeError .reservedOpcode
  | .res => .decodeError .reservedOpcode
  | _ => .instr i

/-- The decode result of a word as R103 and R91 put it: an instruction, the halt-signal, or a named error. -/
def decodeResult (ir : Word) : DecodeResult := classify (decode ir)

/-- The field `v` put at bit `lo` of an otherwise zero word. -/
def place {n : Nat} (v : BitVec n) (lo : Nat) : Word := v.setWidth 16 <<< lo

/-- The opcode of a tag in bits 15:12. -/
def encOp (t : Tag) : Word := place (config.opCode t) 12

/-- Format RRR (30_encoding.md R74), the ignored bits 4:3 zero. -/
def encRRR (t : Tag) (dr sr1 sr2 : Reg) : Word :=
  encOp t ||| place dr 9 ||| place sr1 6 ||| place (BitVec.ofBool (!config.immBit)) 5 ||| place sr2 0

/-- Format RRI (R75). -/
def encRRI (t : Tag) (dr sr1 : Reg) (imm5 : BitVec 5) : Word :=
  encOp t ||| place dr 9 ||| place sr1 6 ||| place (BitVec.ofBool config.immBit) 5 ||| place imm5 0

/-- Format RO9 (R81). -/
def encRO9 (t : Tag) (r : Reg) (off9 : BitVec 9) : Word := encOp t ||| place r 9 ||| place off9 0

/-- Format RBO6 (R82). -/
def encRBO6 (t : Tag) (r baseR : Reg) (off6 : BitVec 6) : Word :=
  encOp t ||| place r 9 ||| place baseR 6 ||| place off6 0

/-- Format TRAP (R83), the ignored bits 11:8 zero. -/
def encTrap (vect8 : BitVec 8) : Word := encOp .trap ||| place vect8 0

/-- The word of an instruction: the inverse of `decode` with zeros in the ignored bits (30_encoding.md R93, R96; the
assembler's ones in NOT's ignored bits are not written). -/
def encode : Instr → Word
  | .addReg dr sr1 sr2 => encRRR .add dr sr1 sr2
  | .addImm dr sr1 imm5 => encRRI .add dr sr1 imm5
  | .andReg dr sr1 sr2 => encRRR .and dr sr1 sr2
  | .andImm dr sr1 imm5 => encRRI .and dr sr1 imm5
  | .not dr sr => encOp .not ||| place dr 9 ||| place sr 6
  | .br n z p off9 =>
    encOp .br ||| place (BitVec.ofBool n) 11 ||| place (BitVec.ofBool z) 10 ||| place (BitVec.ofBool p) 9 ||| place off9 0
  | .jmp baseR => encOp .jmp ||| place baseR 6
  | .ret => encOp .jmp ||| place 7#3 6
  | .jsr off11 => encOp .jsr ||| place (BitVec.ofBool config.offsetBit) 11 ||| place off11 0
  | .jsrr baseR => encOp .jsr ||| place (BitVec.ofBool (!config.offsetBit)) 11 ||| place baseR 6
  | .ld dr off9 => encRO9 .ld dr off9
  | .ldi dr off9 => encRO9 .ldi dr off9
  | .ldr dr baseR off6 => encRBO6 .ldr dr baseR off6
  | .lea dr off9 => encRO9 .lea dr off9
  | .st sr off9 => encRO9 .st sr off9
  | .sti sr off9 => encRO9 .sti sr off9
  | .str sr baseR off6 => encRBO6 .str sr baseR off6
  | .getc => encTrap (config.trapVector .getc)
  | .out => encTrap (config.trapVector .out)
  | .puts => encTrap (config.trapVector .puts)
  | .inChar => encTrap (config.trapVector .inChar)
  | .putsp => encTrap (config.trapVector .putsp)
  | .halt => encTrap (config.trapVector .halt)
  | .trap vect8 => encTrap vect8
  | .rti => encOp .rti
  | .res => encOp .res

/-- The tag an instruction is encoded under (30_encoding.md R72). -/
def Instr.tag : Instr → Tag
  | .addReg _ _ _ | .addImm _ _ _ => .add
  | .andReg _ _ _ | .andImm _ _ _ => .and
  | .not _ _ => .not
  | .br _ _ _ _ => .br
  | .jmp _ | .ret => .jmp
  | .jsr _ | .jsrr _ => .jsr
  | .ld _ _ => .ld
  | .ldi _ _ => .ldi
  | .ldr _ _ _ => .ldr
  | .lea _ _ => .lea
  | .st _ _ => .st
  | .sti _ _ => .sti
  | .str _ _ _ => .str
  | .getc | .out | .puts | .inChar | .putsp | .halt | .trap _ => .trap
  | .rti => .rti
  | .res => .res

/-- The ignored bits of a word cleared (30_encoding.md R86: bits 4:3 of register-form ADD and AND, 5:0 of NOT, 11:9 and 5:0
of JMP, 10:9 and 5:0 of JSRR, 11:8 of TRAP; and the low 12 bits of a reserved opcode, "not examined", R87). -/
def clearIgnored (ir : Word) : Word :=
  match tagOf ir with
  | .add => if ir.getLsbD 5 = config.immBit then ir else ir &&& 0xFFE7#16
  | .and => if ir.getLsbD 5 = config.immBit then ir else ir &&& 0xFFE7#16
  | .not => ir &&& 0xFFC0#16
  | .jmp => ir &&& 0xF1C0#16
  | .jsr => if ir.getLsbD 11 = config.offsetBit then ir else ir &&& 0xF9C0#16
  | .trap => ir &&& 0xF0FF#16
  | .rti => ir &&& 0xF000#16
  | .res => ir &&& 0xF000#16
  | .br | .ld | .ldi | .ldr | .lea | .st | .sti | .str => ir

/-- The host's probe: the instruction read from a table word of `nbits` bits, those above them zero. The only length is one
16-bit word (30_encoding.md R70), so a longer pattern is refused. -/
def decodeTableWord (nbits w : Nat) : Option Instr :=
  if nbits ≤ 16 then some (decode (BitVec.ofNat 16 (w % 2 ^ nbits))) else none

end Sys2Proof
end

