-- ==== Sys2Proof/Machine/Bits.lean ====
section
/-! DEFINITION. Sign and zero extension (00_scope.md R7) and the two bytes of a word (20_memory.md R50). -/

namespace Sys2Proof.Machine

/-- `sext_n(v)`: if bit `n-1` is set, `v | (0xFFFF << n)`, else `v` (00_scope.md R7). -/
def sext {n : Nat} (v : BitVec n) : Word :=
  if v.msb then v.setWidth 16 ||| (0xFFFF#16 <<< n) else v.setWidth 16

/-- `zext_n(v)`: `v` with zeros above (R7). -/
def zext {n : Nat} (v : BitVec n) : Word := v.setWidth 16

/-- Bits 7:0 of a word: the byte OUT and PUTS send, PUTSP's first character (44_trap.md R158, R159, R161; log 24). -/
def lowByte (w : Word) : Byte := w.extractLsb' 0 8

/-- Bits 15:8 of a word: PUTSP's second character (R161), and the first of the two bytes of a word of an image
(20_memory.md R63). -/
def highByte (w : Word) : Byte := w.extractLsb' 8 8

end Sys2Proof.Machine
end

