-- ==== Sys2Proof/Machine/State.lean ====
section
/-! DEFINITION. The machine's state as plain data (10_state.md), its reset values (R35), and the reasons a step could stop
other than in a next state. -/

namespace Sys2Proof.Machine

/-- COND, a three-valued type (10_state.md R20, C2). -/
inductive Cond where
  | negative | zero | positive
deriving DecidableEq, Repr

/-- Why the machine is HALTED (10_state.md R23, 60_exceptions.md R185). -/
inductive Cause where
  /-- The HALT trap: the one good end (code 0). -/
  | haltTrap
  /-- A word with opcode RTI or RES was fetched (code 1). -/
  | reservedOpcode
  /-- A TRAP with an unknown vector was fetched (code 2). -/
  | invalidTrapVector
  /-- A request to the input channel answered `Error` (code 3). -/
  | inputError
deriving DecidableEq, Repr

/-- The run state (10_state.md R23): RUNNING, or HALTED with the cause and the information word. -/
inductive RunState where
  | running
  | halted (cause : Cause) (info : Word)
deriving DecidableEq, Repr

/-- One event of the input channel still to come (DESIGN CHOICE, log 13): what the environment does, in order. -/
inductive InEvent where
  /-- The user has typed this byte. -/
  | byte (b : Byte)
  /-- A poll made now finds no byte, though more may follow (10_state.md R31, "`None` as possible at any poll"). -/
  | pause
  /-- The end of the input stream (D11). -/
  | eof
  /-- The input stream is broken (60_exceptions.md R184). -/
  | error
deriving DecidableEq, Repr

/-- One event of the output history (10_state.md R33, R34). -/
inductive OutEvent where
  | byte (b : Byte)
  | flush
deriving DecidableEq, Repr

/-- What the step in progress has still to do when it could not end at once (40_instruction_cycle.md R112; DESIGN CHOICE,
logs 14 and 15). -/
inductive Unfinished where
  /-- GETC waits for its byte. -/
  | getc
  /-- IN, its prompt sent, waits for its byte. -/
  | inChar
  /-- PUTS goes on with the cell at this address. -/
  | puts (a : Word)
  /-- PUTSP goes on with the cell at this address. -/
  | putsp (a : Word)
deriving DecidableEq, Repr

/-- A memory cell's address and content: the unit of addressing is the 16-bit cell (20_memory.md R41, log 10). -/
abbrev Cell := Nat × Word

/-- Memory as the list of the cells that differ from their reset value 0x0000, addresses strictly rising. -/
abbrev Memory := List Cell

/-- Everything the spec gives the machine, and four fields of the model's own (`ir`, `wait`, `steps`, `loaded`). -/
structure State where
  /-- R0 to R7 (10_state.md R13). -/
  regs : Vector Word 8
  /-- PC (R17). -/
  pc : Word
  /-- COND (R20). -/
  cond : Cond
  /-- The run state (R23). -/
  run : RunState
  /-- The 65536 cells, KBSR and KBDR among them (R24 to R26). -/
  mem : Memory
  /-- The input channel: what it will still answer, oldest first (R30 to R32). -/
  input : List InEvent
  /-- The output channel: its whole history, oldest first (R33, R34). -/
  output : List OutEvent
  /-- The model's own: the word fetched by the step in progress (`ir` of 40_instruction_cycle.md R101; log 16). -/
  ir : Word
  /-- The model's own: what the step in progress has still to do (R112; logs 14, 15). -/
  wait : Option Unfinished
  /-- The model's own: the ghost count of fetch cycles (10_state.md R37; log 17). -/
  steps : Nat
  /-- The model's own: the load port has been used since reset (20_memory.md R65, 70_reset_and_hazards.md R206; log 29). -/
  loaded : Bool
deriving DecidableEq, Repr

/-- Faults of a step: none. Every fatal condition of the spec is a transition to a HALTED state that the spec describes
(60_exceptions.md R181), so it is a next state here (log 12), and "no access is ever refused" (20_memory.md R61). -/
inductive Fault where
deriving DecidableEq, Repr

/-- Refusals of a step. -/
inductive Refusal where
  /-- Raised by an arm of `exec` that has no meaning yet. No arm raises it. Safe: the run stops. -/
  | notModelled (mnemonic : String)
deriving DecidableEq, Repr

/-- The machine right after reset (10_state.md R35, 70_reset_and_hazards.md R200): registers and memory zero, PC =
`PC_START`, COND ZERO, RUNNING, the channels empty. DESIGN CHOICE: `ir` 0x0000 (log 16), `wait` none (log 14), `loaded` false
(log 29), and an input channel that holds nothing yet (log 13). -/
def State.reset : State where
  regs := Vector.replicate 8 0#16
  pc := config.pcStart
  cond := .zero
  run := .running
  mem := []
  input := []
  output := []
  ir := 0#16
  wait := none
  steps := 0
  loaded := false

end Sys2Proof.Machine
end

