-- ==== Sys2Proof/Machine/Ops.lean ====
section
/-! DEFINITION. The named operations over the state: registers, memory with the keyboard poll, the two channels, and the
one way the machine stops (`State.raise`). Every meaning is written over these. -/

namespace Sys2Proof.Machine

/-! ### Registers, PC and run state -/

/-- `x[r]` (10_state.md R13). -/
def State.reg (s : State) (r : Reg) : Word := s.regs[r.toNat]'r.isLt

/-- `x[r] <- v` (R13). -/
def State.setReg (s : State) (r : Reg) (v : Word) : State :=
  { s with regs := s.regs.set r.toNat v r.isLt }

/-- `pc <- t` (R17). -/
def State.setPc (s : State) (t : Word) : State := { s with pc := t }

/-- The link: `x[7] <- pc`, the already incremented PC (10_state.md R14). -/
def State.link (s : State) : State := s.setReg 7#3 s.pc

/-- `raise <Cause>(info)`: `run <- HALTED(<Cause>, info)`, and nothing else (60_exceptions.md R181). No handler runs, no
register is saved, PC is not redirected. The halt-signal stops the machine the same way, with cause HaltTrap (R105). -/
def State.raise (s : State) (cause : Cause) (info : Word) : State :=
  { s with run := .halted cause info }

/-- The codes of the causes (60_exceptions.md R185). -/
def Cause.code : Cause → Nat
  | .haltTrap => 0
  | .reservedOpcode => 1
  | .invalidTrapVector => 2
  | .inputError => 3

/-! ### Memory -/

/-- What a cell that is not listed holds: its reset value (10_state.md R35). -/
def Memory.unlisted : Word := 0#16

/-- `mem[a]`: the stored content of cell `a`, no side effect (R24). -/
def Memory.read : Memory → Nat → Word
  | [], _ => Memory.unlisted
  | c :: m, a => if c.1 = a then c.2 else Memory.read m a

/-- The list with the entry for `a` put before the first entry of a higher address. -/
def Memory.insert (a : Nat) (v : Word) : Memory → Memory
  | [] => [(a, v)]
  | c :: m => if a < c.1 then (a, v) :: c :: m else c :: Memory.insert a v m

/-- `mem[a] <- v`, all 16 bits, no other cell (20_memory.md R47), in the canonical form: writing the unlisted value removes
the entry. -/
def Memory.write (m : Memory) (a : Nat) (v : Word) : Memory :=
  let rest := m.filter (fun c => c.1 ≠ a)
  if v = Memory.unlisted then rest else Memory.insert a v rest

/-- The canonical form: addresses of the 65536 cells, strictly rising, and no entry equal to the unlisted value. -/
abbrev Memory.wf (m : Memory) : Prop :=
  m.Pairwise (fun c d => c.1 < d.1) ∧ ∀ c ∈ m, c.1 < 65536 ∧ c.2 ≠ Memory.unlisted

/-- `mem[a]` of the state, for a 16-bit address (10_state.md R24). -/
def State.cell (s : State) (a : Word) : Word := Memory.read s.mem a.toNat

/-- `MemWrite(a, 1, v)`: a plain write at every address, KBSR and KBDR included (20_memory.md R47, R48; log 25). -/
def State.memWrite (s : State) (a v : Word) : State :=
  { s with mem := Memory.write s.mem a.toNat v }

/-! ### The input channel -/

/-- An answer of `InPoll()` and the channel after it (10_state.md R31). -/
inductive PollAnswer where
  | byte (b : Byte) (rest : List InEvent)
  | none (rest : List InEvent)
  | error

/-- `InPoll()`: does not wait (R31). A channel whose next event has not happened yet answers `None`. At the end of input
the answer follows `IN_EOF_POLICY`. -/
def inPoll : List InEvent → PollAnswer
  | [] => .none []
  | .byte b :: rest => .byte b rest
  | .pause :: rest => .none rest
  | .eof :: rest =>
    match config.inEofPolicy with
    | .error => .error
    | .block => .none (.eof :: rest)
  | .error :: _ => .error

/-- An answer of `InRead()`, or the fact that it still waits, and the channel after it (R32). -/
inductive ReadAnswer where
  | byte (b : Byte) (rest : List InEvent)
  | waiting (rest : List InEvent)
  | error

/-- `InRead()`: waits over every pause until a byte is there (R32). At the end of input the answer follows
`IN_EOF_POLICY`. -/
def inRead : List InEvent → ReadAnswer
  | [] => .waiting []
  | .byte b :: rest => .byte b rest
  | .pause :: rest => inRead rest
  | .eof :: rest =>
    match config.inEofPolicy with
    | .error => .error
    | .block => .waiting (.eof :: rest)
  | .error :: _ => .error

/-- The channel after an answer. -/
def State.setInput (s : State) (rest : List InEvent) : State := { s with input := rest }

/-- The step in progress cannot end yet (40_instruction_cycle.md R112). -/
def State.suspend (s : State) (u : Unfinished) : State := { s with wait := some u }

/-- The unfinished step is taken up again. -/
def State.takeUp (s : State) : State := { s with wait := none }

/-! ### The output channel -/

/-- Events appended to the output history. -/
def State.emit (s : State) (es : List OutEvent) : State := { s with output := s.output ++ es }

/-- `OutByte(b)` (10_state.md R33). -/
def State.outByte (s : State) (b : Byte) : State := s.emit [.byte b]

/-- `OutByte` for each byte in order. -/
def State.outBytes (s : State) (bs : List Byte) : State := s.emit (bs.map .byte)

/-- `OutFlush()`: a mark, no effect on the state of the CORE (R34). -/
def State.outFlush (s : State) : State := s.emit [.flush]

/-! ### Reading memory -/

/-- The outcome of an operation that may raise InputError: a value and the state, or the state in which the machine has
stopped, the rest of the step being abandoned (60_exceptions.md R181). -/
inductive Access (α : Type) where
  | ok (v : α) (s : State)
  | stop (s : State)

/-- Go on with the value, or keep the stopped state. -/
def Access.after {α : Type} (x : Access α) (k : α → State → State) : State :=
  match x with
  | .ok v s => k v s
  | .stop s => s

/-- `KeyboardPoll()` (20_memory.md R45): READY and the byte, or READY clear, or InputError with no cell written. -/
def keyboardPoll (s : State) : Access Unit :=
  match inPoll s.input with
  | .byte b rest =>
    .ok () (((s.setInput rest).memWrite config.kbsrAddr 0x8000#16).memWrite config.kbdrAddr (zext b))
  | .none rest => .ok () ((s.setInput rest).memWrite config.kbsrAddr 0x0000#16)
  | .error => .stop (s.raise .inputError config.kbsrAddr)

/-- `MemRead(a, 1)`: the only way the machine reads memory; a read of KBSR polls first (20_memory.md R44, R49; log 23). -/
def memRead (a : Word) (s : State) : Access Word :=
  if a = config.kbsrAddr then
    match keyboardPoll s with
    | .ok () t => .ok (t.cell a) t
    | .stop t => .stop t
  else .ok (s.cell a) s

/-! ### The fetch -/

/-- A step begins: it counts (10_state.md R37, 40_instruction_cycle.md R111; log 17). -/
def State.beginStep (s : State) : State := { s with steps := s.steps + 1 }

/-- The fetched word is kept for `info` (log 16). -/
def State.setIr (s : State) (w : Word) : State := { s with ir := w }

/-- The fetch phase of a step: `ir <- MemRead(pc, 1)`, then `pc <- pc +16 1`; a fetch that fails leaves PC
unincremented (40_instruction_cycle.md R101, R102). -/
def fetch (s : State) : Access Word :=
  match memRead s.pc s.beginStep with
  | .ok w t => .ok w ((t.setPc (t.pc + 1#16)).setIr w)
  | .stop t => .stop t

end Sys2Proof.Machine
end

