-- ==== Sys2Proof/Machine/Flags.lean ====
section
/-! DEFINITION. The flag update (40_instruction_cycle.md R108, R109) and the write of a destination register that calls
it. -/

namespace Sys2Proof.Machine

/-- The flag of a word: ZERO if it is 0, NEGATIVE if bit 15 is set, POSITIVE otherwise (R108). -/
def condOf (v : Word) : Cond :=
  if v = 0#16 then .zero else if v.getLsbD 15 then .negative else .positive

/-- `setcc(v)` (R108). -/
def State.setcc (s : State) (v : Word) : State := { s with cond := condOf v }

/-- The end of ADD, AND, NOT, LD, LDI, LDR and LEA: `x[DR] <- v; setcc(v)` (R109). -/
def State.writeDr (s : State) (dr : Reg) (v : Word) : State := (s.setReg dr v).setcc v

/-- The numeric codes of the three values, an aside of 10_state.md R22 that no rule depends on (log 27). -/
def Cond.code : Cond → BitVec 3
  | .positive => 0b001#3
  | .zero => 0b010#3
  | .negative => 0b100#3

end Sys2Proof.Machine
end

