-- ==== Sys2Proof/Machine/Operands.lean ====
section
/-! DEFINITION. Operand forms: the effective addresses of 43_load_store.md R140, the branch condition. -/

namespace Sys2Proof.Machine

/-- `pc +16 sext_n(off)`, PC already incremented (42_control_transfer.md R130, 43_load_store.md R140). -/
def State.pcRel {n : Nat} (s : State) (off : BitVec n) : Word := s.pc + sext off

/-- `x[BaseR] +16 sext_6(off6)` (R140). -/
def State.baseOff (s : State) (baseR : Reg) (off6 : BitVec 6) : Word := s.reg baseR + sext off6

/-- Whether a BR is taken (42_control_transfer.md R131): no condition bit set, or the bit of the current COND set. -/
def branchTaken (n z p : Bool) (c : Cond) : Bool :=
  (!n && !z && !p) || (n && c = .negative) || (z && c = .zero) || (p && c = .positive)

end Sys2Proof.Machine
end

