-- ==== Sys2Proof/Machine/Arith.lean ====
section
/-! DEFINITION. ADD, AND and NOT (41_arithmetic_logic.md). Sources are read before DR is written (R120). -/

namespace Sys2Proof.Machine

open Host (Outcome)

/-- `ADD DR, SR1, SR2`: the sum modulo 2^16, no carry or overflow (R121). -/
def execAddReg (dr sr1 sr2 : Reg) (s : State) : Outcome State Fault Refusal :=
  .next (s.writeDr dr (s.reg sr1 + s.reg sr2))

/-- `ADD DR, SR1, #imm5` (R122). -/
def execAddImm (dr sr1 : Reg) (imm5 : BitVec 5) (s : State) : Outcome State Fault Refusal :=
  .next (s.writeDr dr (s.reg sr1 + sext imm5))

/-- `AND DR, SR1, SR2` (R123). -/
def execAndReg (dr sr1 sr2 : Reg) (s : State) : Outcome State Fault Refusal :=
  .next (s.writeDr dr (s.reg sr1 &&& s.reg sr2))

/-- `AND DR, SR1, #imm5`: the immediate is sign-extended (R124). -/
def execAndImm (dr sr1 : Reg) (imm5 : BitVec 5) (s : State) : Outcome State Fault Refusal :=
  .next (s.writeDr dr (s.reg sr1 &&& sext imm5))

/-- `NOT DR, SR`: all 16 bits inverted (R125). -/
def execNot (dr sr : Reg) (s : State) : Outcome State Fault Refusal :=
  .next (s.writeDr dr (~~~ (s.reg sr)))

end Sys2Proof.Machine
end

