-- ==== Sys2Proof/Machine/Control.lean ====
section
/-! DEFINITION. BR, JMP, RET, JSR, JSRR (42_control_transfer.md). In every meaning PC is already incremented (R130); any
value is a legal target; none writes COND. -/

namespace Sys2Proof.Machine

open Host (Outcome)

/-- `BR[n][z][p] off9` (R131); with no condition bit set it is always taken (C9). -/
def execBr (n z p : Bool) (off9 : BitVec 9) (s : State) : Outcome State Fault Refusal :=
  .next (if branchTaken n z p s.cond then s.setPc (s.pcRel off9) else s)

/-- `JMP BaseR` (R132). -/
def execJmp (baseR : Reg) (s : State) : Outcome State Fault Refusal :=
  .next (s.setPc (s.reg baseR))

/-- `RET`: R132 with BaseR = 7 (R133). -/
def execRet (s : State) : Outcome State Fault Refusal :=
  .next (s.setPc (s.reg 7#3))

/-- `JSR off11`: the link, then the PC-relative target (R134). -/
def execJsr (off11 : BitVec 11) (s : State) : Outcome State Fault Refusal :=
  .next (s.link.setPc (s.pcRel off11))

/-- `JSRR BaseR`: the base register is read after the link has been written, so `JSRR R7` does not transfer (R135;
log 22). -/
def execJsrr (baseR : Reg) (s : State) : Outcome State Fault Refusal :=
  .next (s.link.setPc (s.link.reg baseR))

end Sys2Proof.Machine
end

