-- ==== Sys2Proof/Machine/LoadStore.lean ====
section
/-! DEFINITION. LD, LDI, LDR, LEA, ST, STI, STR (43_load_store.md). Every read is a `memRead`; when a poll fails the
machine has stopped, and neither DR nor COND nor a cell is written (R140). -/

namespace Sys2Proof.Machine

open Host (Outcome)

/-- `LD DR, off9` (R141). -/
def execLd (dr : Reg) (off9 : BitVec 9) (s : State) : Outcome State Fault Refusal :=
  .next ((memRead (s.pcRel off9) s).after fun v t => t.writeDr dr v)

/-- `LDI DR, off9`: the pointer, then the datum (R142; order R56). -/
def execLdi (dr : Reg) (off9 : BitVec 9) (s : State) : Outcome State Fault Refusal :=
  .next ((memRead (s.pcRel off9) s).after fun ea t =>
    (memRead ea t).after fun v u => u.writeDr dr v)

/-- `LDR DR, BaseR, off6`: the base register is read before DR is written (R143). -/
def execLdr (dr baseR : Reg) (off6 : BitVec 6) (s : State) : Outcome State Fault Refusal :=
  .next ((memRead (s.baseOff baseR off6) s).after fun v t => t.writeDr dr v)

/-- `LEA DR, off9`: no memory access; COND is written from the address (R144). -/
def execLea (dr : Reg) (off9 : BitVec 9) (s : State) : Outcome State Fault Refusal :=
  .next (s.writeDr dr (s.pcRel off9))

/-- `ST SR, off9` (R145). -/
def execSt (sr : Reg) (off9 : BitVec 9) (s : State) : Outcome State Fault Refusal :=
  .next (s.memWrite (s.pcRel off9) (s.reg sr))

/-- `STI SR, off9`: the pointer read, which polls if it is of KBSR, then the write (R146). -/
def execSti (sr : Reg) (off9 : BitVec 9) (s : State) : Outcome State Fault Refusal :=
  .next ((memRead (s.pcRel off9) s).after fun ea t => t.memWrite ea (t.reg sr))

/-- `STR SR, BaseR, off6` (R147). -/
def execStr (sr baseR : Reg) (off6 : BitVec 6) (s : State) : Outcome State Fault Refusal :=
  .next (s.memWrite (s.baseOff baseR off6) (s.reg sr))

end Sys2Proof.Machine
end

