-- ==== Sys2Proof/Machine/Trap.lean ====
section
/-! DEFINITION. TRAP (44_trap.md) and the reserved opcodes (60_exceptions.md R182). A service is performed inside the
TRAP's own step: the link to R7 first (R155), then the service. What a step cannot finish at once (no input byte yet, a
string longer than one pass over memory) it leaves in `wait`, and `resume` goes on with it (R112; logs 14, 15). -/

namespace Sys2Proof.Machine

open Host (Outcome)

/-- The input byte in R0, zero-extended over the whole register (log 26), and COND from it when `TRAP_IN_SETS_FLAGS`
(R157, R160; log 7). -/
def State.putChar (s : State) (b : Byte) : State :=
  let t := s.setReg 0#3 (zext b)
  if config.trapInSetsFlags then t.setcc (zext b) else t

/-- GETC after its link: `InRead()`, then R0 (R157). -/
def getcRead (s : State) : State :=
  match inRead s.input with
  | .byte b rest => (s.setInput rest).putChar b
  | .waiting rest => (s.setInput rest).suspend .getc
  | .error => s.raise .inputError s.ir

/-- IN after its link and prompt: `InRead()`, then the echo, a flush, and R0 (R160). -/
def inCharRead (s : State) : State :=
  match inRead s.input with
  | .byte b rest => (((s.setInput rest).outByte b).outFlush).putChar b
  | .waiting rest => (s.setInput rest).suspend .inChar
  | .error => s.raise .inputError s.ir

/-- How many string cells one step of the model reads before it leaves the rest to the next: one pass over memory
(DESIGN CHOICE, log 15). -/
def scanPass : Nat := 65536

/-- The loop of PUTS from cell `a` (R159): a zero word ends it, otherwise bits 7:0 are sent. The address wraps. -/
def putsLoop : Nat → Word → State → State
  | 0, a, s => s.suspend (.puts a)
  | k + 1, a, s =>
    (memRead a s).after fun w t =>
      if w = 0#16 then t.outFlush else putsLoop k (a + 1#16) (t.outByte (lowByte w))

/-- The loop of PUTSP from cell `a` (R161): a zero word ends it, a zero high byte ends it after the low byte (C10). -/
def putspLoop : Nat → Word → State → State
  | 0, a, s => s.suspend (.putsp a)
  | k + 1, a, s =>
    (memRead a s).after fun w t =>
      if w = 0#16 then t.outFlush
      else if highByte w = 0#8 then (t.outByte (lowByte w)).outFlush
      else putspLoop k (a + 1#16) ((t.outByte (lowByte w)).outByte (highByte w))

/-- `GETC` = `TRAP x20` (R157). -/
def execGetc (s : State) : Outcome State Fault Refusal :=
  .next (getcRead s.link)

/-- `OUT` = `TRAP x21`: the low byte of R0, no flush (R158). -/
def execOut (s : State) : Outcome State Fault Refusal :=
  .next (s.link.outByte (lowByte (s.link.reg 0#3)))

/-- `PUTS` = `TRAP x22`: the string at R0, one character a cell (R159). -/
def execPuts (s : State) : Outcome State Fault Refusal :=
  .next (putsLoop scanPass (s.link.reg 0#3) s.link)

/-- `IN` = `TRAP x23`: the prompt, a flush, then the read with its echo (R160). -/
def execInChar (s : State) : Outcome State Fault Refusal :=
  .next (inCharRead ((s.link.outBytes config.inPrompt).outFlush))

/-- `PUTSP` = `TRAP x24`: the string at R0, two characters a cell (R161). -/
def execPutsp (s : State) : Outcome State Fault Refusal :=
  .next (putspLoop scanPass (s.link.reg 0#3) s.link)

/-- `HALT` = `TRAP x25`, the halt-signal: flush, then HALTED(HaltTrap, ir); R7 is written only when `HALT_LINKS` (R162,
40_instruction_cycle.md R105, C3; log 6). No byte is sent (log 28). -/
def execHalt (s : State) : Outcome State Fault Refusal :=
  .next ((if config.haltLinks then s.link else s).outFlush.raise .haltTrap s.ir)

/-- `TRAP vect8` with an unknown vector: HALTED(InvalidTrapVector, ir), no link, no output (R163; 60_exceptions.md
R183). The vector itself is in `ir`. -/
def execTrap (_vect8 : BitVec 8) (s : State) : Outcome State Fault Refusal :=
  .next (s.raise .invalidTrapVector s.ir)

/-- A word with opcode RTI: HALTED(ReservedOpcode, ir), nothing else (60_exceptions.md R182). -/
def execRti (s : State) : Outcome State Fault Refusal :=
  .next (s.raise .reservedOpcode s.ir)

/-- A word with opcode RES: HALTED(ReservedOpcode, ir), nothing else (R182). -/
def execRes (s : State) : Outcome State Fault Refusal :=
  .next (s.raise .reservedOpcode s.ir)

/-- The unfinished step goes on where it stopped (R112, R159(e)). -/
def resume (u : Unfinished) (s : State) : State :=
  match u with
  | .getc => getcRead s.takeUp
  | .inChar => inCharRead s.takeUp
  | .puts a => putsLoop scanPass a s.takeUp
  | .putsp a => putspLoop scanPass a s.takeUp

end Sys2Proof.Machine
end

