-- ==== Sys2Proof/Machine/Step.lean ====
section
/-! DEFINITION. One step of the run loop (40_instruction_cycle.md R101), and the host's probe that places a word where the
next step fetches it. -/

namespace Sys2Proof.Machine

/-- One step. HALTED: no step is taken, nothing changes (70_reset_and_hazards.md R205; log 12). An unfinished step goes on
(R112; log 14). Otherwise fetch, increment PC, decode, execute (R101). -/
def step (s : State) : Host.Outcome State Fault Refusal :=
  match s.run with
  | .halted _ _ => .next s
  | .running =>
    match s.wait with
    | some u => .next (resume u s)
    | none =>
      match fetch s with
      | .ok w t => exec (decode w) t
      | .stop t => .next t

/-- `k` steps, for the predicates over runs (every step answers a next state; `none` only if one did not). -/
def runSteps : Nat → State → Option State
  | 0, s => some s
  | k + 1, s =>
    match step s with
    | .next t => runSteps k t
    | .fault _ => none
    | .refused _ => none

/-- `s` about to fetch the word `w` of `nbits` bits: RUNNING, no step unfinished, PC at a cell whose read does not poll
(`PC_START` if PC was at KBSR), and the word in that cell (log 19). -/
def State.withFetchWord (s : State) (nbits w : Nat) : State :=
  let pc := if s.pc = config.kbsrAddr then config.pcStart else s.pc
  { s.memWrite pc (BitVec.ofNat 16 (w % 2 ^ nbits)) with pc := pc, run := .running, wait := none }

end Sys2Proof.Machine
end

