-- ==== Sys2Proof/Machine/HostPort.lean ====
section
/-! DEFINITION. What the host can do to the machine (70_reset_and_hazards.md R206): load a program image before the first
step (20_memory.md R62 to R66), feed the input channel, take the output. -/

namespace Sys2Proof.Machine

/-- Why a load is refused. A bad image: the run never starts (20_memory.md R64, 60_exceptions.md R198). A load at a time
when the port is closed: nothing is written, and the machine is left as it is (R65, log 29). -/
inductive LoadError where
  /-- The machine has begun a step, or its one image has been loaded (R65, 10_state.md R36). -/
  | portClosed
  /-- The stream is too short to hold the origin word (log 20). -/
  | noOrigin
  /-- The stream ends after an odd number of bytes (log 20). -/
  | shortRead
  /-- `origin + len(words) > 65536`: "image too large", no wrap to address 0. -/
  | tooLarge
deriving DecidableEq, Repr

/-- What a load gives: a machine ready for its first step, or a refusal with no state of its own. -/
inductive Launch where
  | ready (s : State)
  | refused (e : LoadError)
deriving DecidableEq, Repr

/-- A word of the image from its two bytes, the high byte first (20_memory.md R63). -/
def bigEndian (hi lo : Byte) : Word := hi ++ lo

/-- The whole words of a byte stream, and whether an odd byte is left over. -/
def imageWords : List Byte → List Word × Bool
  | hi :: lo :: bs => (bigEndian hi lo :: (imageWords bs).1, (imageWords bs).2)
  | [_] => ([], true)
  | [] => ([], false)

/-- `mem[a + k] <- words[k]`, in order, plain writes (R62). -/
def Memory.load (m : Memory) (a : Nat) : List Word → Memory
  | [] => m
  | w :: ws => Memory.load (Memory.write m a w) (a + 1) ws

/-- The load port is open "after reset, before the first step, once" (70_reset_and_hazards.md R206; 20_memory.md R65): no
step has begun, none is unfinished, the machine has not stopped, and no image has been loaded. -/
abbrev State.LoadOpen (s : State) : Prop :=
  s.run = .running ∧ s.wait = none ∧ s.steps = 0 ∧ s.loaded = false

/-- `Load(origin, words)`: refused when the port is closed (R65) and when it would pass 65535 (R64); otherwise the words are
written (R62), the port closes, and nothing else changes. PC stays at `PC_START` whatever the origin
(70_reset_and_hazards.md R202). -/
def State.load (s : State) (origin : Word) (words : List Word) : Launch :=
  if s.LoadOpen then
    if origin.toNat + words.length ≤ 65536 then
      .ready { s with mem := Memory.load s.mem origin.toNat words, loaded := true }
    else .refused .tooLarge
  else .refused .portClosed

/-- Reset, then the load of one image (70_reset_and_hazards.md R201; image format 20_memory.md R63). -/
def launch (image : List Byte) : Launch :=
  match imageWords image with
  | ([], _) => .refused .noOrigin
  | (origin :: words, odd) =>
    match State.reset.load origin words with
    | .refused e => .refused e
    | .ready s => if odd then .refused .shortRead else .ready s

/-- The two bytes of a word in an image. -/
def wordBytes (w : Word) : List Byte := [highByte w, lowByte w]

/-- The image of a load: the origin word, then the words, each high byte first (R63). -/
def imageOf (origin : Word) (words : List Word) : List Byte :=
  wordBytes origin ++ words.flatMap wordBytes

/-- The environment adds events to the input channel, between two steps: bytes in the order typed (R206). -/
def State.supply (s : State) (es : List InEvent) : State := { s with input := s.input ++ es }

/-- The bytes sent so far, in order (R206). -/
def State.outputBytes (s : State) : List Byte :=
  s.output.filterMap fun e =>
    match e with
    | .byte b => some b
    | .flush => none

end Sys2Proof.Machine
end

