-- ==== Sys2Proof/Safety.lean ====
section
/-! DEFINITION. Good and bad ends of a run (40_instruction_cycle.md R113, 60_exceptions.md R181), and the invariant of the
machine. -/

namespace Sys2Proof.Machine

/-- The run ended well: HALTED with cause HaltTrap (R113). -/
def State.endedWell (s : State) : Bool :=
  match s.run with
  | .halted .haltTrap _ => true
  | _ => false

/-- A fault in the spec's sense: HALTED with any other cause, "never a good final state" (60_exceptions.md R181). -/
def State.faulted (s : State) : Bool :=
  match s.run with
  | .halted .haltTrap _ => false
  | .halted _ _ => true
  | .running => false

/-- A run that has not faulted in its first `k` steps. -/
def State.safeFor (s : State) (k : Nat) : Prop :=
  ∀ n ≤ k, ∃ t, runSteps n s = some t ∧ t.faulted = false

/-- The run from `s` ends well after some number of steps. -/
def State.endsWell (s : State) : Prop := ∃ n t, runSteps n s = some t ∧ t.endedWell = true

/-- The invariant that every step keeps: the memory is in its canonical form, and an unfinished step belongs to a RUNNING
machine whose R7 holds the link, which is PC (40_instruction_cycle.md R112: "the fetch, the PC increment, the link to R7"
are done while it waits), and a machine that is inside a step or has stopped has begun a step (10_state.md R37; so its load
port is closed, 20_memory.md R65). -/
def State.Inv (s : State) : Prop :=
  Memory.wf s.mem ∧ (s.wait ≠ none → s.run = .running ∧ s.reg 7#3 = s.pc) ∧
    (s.wait ≠ none ∨ s.run ≠ .running → s.steps ≠ 0)

end Sys2Proof.Machine
end

