-- ==== Sys2Proof/Certificates/Slice0/Obligations.lean ====
section
/-! DEFINITION. The statements for the provers, from the numbered rules of spec/. The words they are written in (what an
instruction that defines a register does, what a memory read may do, ...) stand first, apart from the meanings. -/

open Sys2Proof Sys2Proof.Machine

namespace Sys2Proof.Claims

/-! ### The words the statements are written in -/

/-- An outcome of the execute phase or of a step. -/
abbrev Out := Host.Outcome State Fault Refusal

/-- `a +16 off` for a signed offset field of any width (00_scope.md R6, R7). -/
def offset {n : Nat} (a : Word) (off : BitVec n) : Word := BitVec.ofInt 16 (a.toInt + off.toInt)

/-- COND as 40_instruction_cycle.md R108 ranges it: ZERO for 0x0000, POSITIVE for 0x0001..0x7FFF, NEGATIVE for
0x8000..0xFFFF. -/
def FlagOf (v : Word) (c : Cond) : Prop :=
  (v.toNat = 0 → c = .zero) ∧ (1 ≤ v.toNat ∧ v.toNat ≤ 0x7FFF → c = .positive) ∧ (0x8000 ≤ v.toNat → c = .negative)

def SameRegs (s t : State) : Prop := ∀ r, t.reg r = s.reg r

/-- All registers but those listed are as before. -/
def SameRegsBut (rs : List Reg) (s t : State) : Prop := ∀ r, r ∉ rs → t.reg r = s.reg r

/-- Every cell reads as before. -/
def SameMemory (s t : State) : Prop := ∀ a, t.cell a = s.cell a

/-- Both channels are as before. -/
def SameChannels (s t : State) : Prop := t.input = s.input ∧ t.output = s.output

/-- The run state and the model's own fields are as before. -/
def SameControl (s t : State) : Prop :=
  t.run = s.run ∧ t.wait = s.wait ∧ t.ir = s.ir ∧ t.steps = s.steps ∧ t.loaded = s.loaded

/-- `x[dr] <- v; setcc(v)` and nothing else. -/
def Defines (dr : Reg) (v : Word) (s t : State) : Prop :=
  t.reg dr = v ∧ SameRegsBut [dr] s t ∧ FlagOf v t.cond ∧ t.pc = s.pc ∧ SameMemory s t ∧ SameChannels s t ∧ SameControl s t

/-- `pc <- target` after the registers `rs` were written, and nothing else. -/
def Transfers (target : Word) (rs : List Reg) (s t : State) : Prop :=
  t.pc = target ∧ SameRegsBut rs s t ∧ t.cond = s.cond ∧ SameMemory s t ∧ SameChannels s t ∧ SameControl s t

/-- `MemWrite(a, 1, v)` and nothing else. -/
def Stores (a v : Word) (s t : State) : Prop :=
  t.cell a = v ∧ (∀ b, b ≠ a → t.cell b = s.cell b) ∧ SameRegs s t ∧ t.pc = s.pc ∧ t.cond = s.cond ∧ SameChannels s t ∧
    SameControl s t

/-- `run <- HALTED(cause, info)` and nothing else (60_exceptions.md R181). -/
def StopsWith (cause : Cause) (info : Word) (s t : State) : Prop :=
  t.run = .halted cause info ∧ SameRegs s t ∧ t.pc = s.pc ∧ t.cond = s.cond ∧ SameMemory s t ∧ SameChannels s t ∧
    t.wait = s.wait ∧ t.ir = s.ir ∧ t.steps = s.steps ∧ t.loaded = s.loaded

/-- The keyboard cells and the input after a poll that did not fail, nothing else changed (20_memory.md R45): `status` in
KBSR, and in KBDR the byte, if there was one. -/
def Polled (status : Word) (data : Option Byte) (rest : List InEvent) (s t : State) : Prop :=
  t.cell config.kbsrAddr = status ∧
    t.cell config.kbdrAddr = (match data with | some b => b.setWidth 16 | none => s.cell config.kbdrAddr) ∧
    (∀ a, a ≠ config.kbsrAddr → a ≠ config.kbdrAddr → t.cell a = s.cell a) ∧
    t.input = rest ∧ t.output = s.output ∧ SameRegs s t ∧ t.pc = s.pc ∧ t.cond = s.cond ∧ SameControl s t

/-- `MemRead(a, 1)` in `s` answers `v` and leaves `u` (20_memory.md R44, R45). -/
def ReadsAs (a v : Word) (s u : State) : Prop :=
  (a ≠ config.kbsrAddr ∧ v = s.cell a ∧ u = s) ∨
  (a = config.kbsrAddr ∧ ∃ b rest, inPoll s.input = .byte b rest ∧ v = 0x8000#16 ∧ Polled 0x8000#16 (some b) rest s u) ∨
  (a = config.kbsrAddr ∧ ∃ rest, inPoll s.input = .none rest ∧ v = 0x0000#16 ∧ Polled 0x0000#16 none rest s u)

/-- `MemRead(a, 1)` raises InputError: a read of KBSR whose poll answers `Error` (60_exceptions.md R184). -/
def ReadFails (a : Word) (s : State) : Prop := a = config.kbsrAddr ∧ inPoll s.input = .error

/-- The registers an instruction may write, from the table of 10_state.md R15. -/
def regWrites : Instr → List Reg
  | .addReg dr _ _ | .addImm dr _ _ | .andReg dr _ _ | .andImm dr _ _ | .not dr _ => [dr]
  | .ld dr _ | .ldi dr _ | .ldr dr _ _ | .lea dr _ => [dr]
  | .jsr _ | .jsrr _ | .out | .puts | .putsp => [7#3]
  | .getc | .inChar => [7#3, 0#3]
  | .halt => if config.haltLinks then [7#3] else []
  | .br _ _ _ _ | .jmp _ | .ret | .st _ _ | .sti _ _ | .str _ _ _ | .trap _ | .rti | .res => []

/-- The instructions that may write COND (40_instruction_cycle.md R109; GETC and IN under `TRAP_IN_SETS_FLAGS`). -/
def mayWriteCond : Instr → Bool
  | .addReg _ _ _ | .addImm _ _ _ | .andReg _ _ _ | .andImm _ _ _ | .not _ _ => true
  | .ld _ _ | .ldi _ _ | .ldr _ _ _ | .lea _ _ => true
  | .getc | .inChar => config.trapInSetsFlags
  | .br _ _ _ _ | .jmp _ | .ret | .jsr _ | .jsrr _ | .st _ _ | .sti _ _ | .str _ _ _ => false
  | .out | .puts | .putsp | .halt | .trap _ | .rti | .res => false

/-- The instructions that write PC after the increment (10_state.md R19). -/
def mayWritePc : Instr → Bool
  | .br _ _ _ _ | .jmp _ | .ret | .jsr _ | .jsrr _ => true
  | .addReg _ _ _ | .addImm _ _ _ | .andReg _ _ _ | .andImm _ _ _ | .not _ _ => false
  | .ld _ _ | .ldi _ _ | .ldr _ _ _ | .lea _ _ | .st _ _ | .sti _ _ | .str _ _ _ => false
  | .getc | .out | .puts | .inChar | .putsp | .halt | .trap _ | .rti | .res => false

/-- The instructions that read memory in their execute phase, and so may poll (20_memory.md R42, R49). -/
def readsMemory : Instr → Bool
  | .ld _ _ | .ldi _ _ | .ldr _ _ _ | .sti _ _ | .puts | .putsp => true
  | .addReg _ _ _ | .addImm _ _ _ | .andReg _ _ _ | .andImm _ _ _ | .not _ _ => false
  | .br _ _ _ _ | .jmp _ | .ret | .jsr _ | .jsrr _ | .lea _ _ | .st _ _ | .str _ _ _ => false
  | .getc | .out | .inChar | .halt | .trap _ | .rti | .res => false

/-- The addresses an instruction stores to, computed as its meaning computes them (20_memory.md R42). -/
def storesTo (i : Instr) (s : State) : List Word :=
  match i with
  | .st _ off9 => [s.pcRel off9]
  | .str _ baseR off6 => [s.baseOff baseR off6]
  | .sti _ off9 =>
    match memRead (s.pcRel off9) s with
    | .ok ea _ => [ea]
    | .stop _ => []
  | _ => []

/-- The loop of PUTS as 44_trap.md R159 writes it, with no bound: from cell `a` in `s` it ends in `t`. -/
inductive PutsScan : Word → State → State → Prop
  | done (a : Word) (s t : State) : memRead a s = .ok 0#16 t → PutsScan a s t.outFlush
  | more (a w : Word) (s t u : State) : memRead a s = .ok w t → w ≠ 0#16 →
      PutsScan (a + 1#16) (t.outByte (lowByte w)) u → PutsScan a s u
  | fails (a : Word) (s t : State) : memRead a s = .stop t → PutsScan a s t

/-- The loop of PUTSP as 44_trap.md R161 writes it. -/
inductive PutspScan : Word → State → State → Prop
  | done (a : Word) (s t : State) : memRead a s = .ok 0#16 t → PutspScan a s t.outFlush
  | half (a w : Word) (s t : State) : memRead a s = .ok w t → w ≠ 0#16 → highByte w = 0#8 →
      PutspScan a s (t.outByte (lowByte w)).outFlush
  | more (a w : Word) (s t u : State) : memRead a s = .ok w t → w ≠ 0#16 → highByte w ≠ 0#8 →
      PutspScan (a + 1#16) ((t.outByte (lowByte w)).outByte (highByte w)) u → PutspScan a s u
  | fails (a : Word) (s t : State) : memRead a s = .stop t → PutspScan a s t

/-- `n` rounds of the loop of PUTS (R159), from cell `a` in `s` to cell `b` in `u`: none of the `n` cells is a terminator,
and no poll fails. -/
inductive PutsRunsOn : Nat → Word → State → Word → State → Prop
  | here (a : Word) (s : State) : PutsRunsOn 0 a s a s
  | more (n : Nat) (a w b : Word) (s t u : State) : memRead a s = .ok w t → w ≠ 0#16 →
      PutsRunsOn n (a + 1#16) (t.outByte (lowByte w)) b u → PutsRunsOn (n + 1) a s b u

/-- `n` rounds of the loop of PUTSP (R161). -/
inductive PutspRunsOn : Nat → Word → State → Word → State → Prop
  | here (a : Word) (s : State) : PutspRunsOn 0 a s a s
  | more (n : Nat) (a w b : Word) (s t u : State) : memRead a s = .ok w t → highByte w ≠ 0#8 →
      PutspRunsOn n (a + 1#16) ((t.outByte (lowByte w)).outByte (highByte w)) b u → PutspRunsOn (n + 1) a s b u

/-- `u` is RUNNING inside the TRAP of `s`: at least `n` bytes sent since, PC and COND as they were. -/
def Unended (s : State) (n : Nat) (u : State) : Prop :=
  u.run = .running ∧ s.output.length + n ≤ u.output.length ∧ u.pc = s.pc ∧ u.cond = s.cond

/-- The unfinished step is one of GETC or IN. -/
def awaitsInput : Unfinished → Bool
  | .getc | .inChar => true
  | .puts _ | .putsp _ => false

/-- The loop of PUTS from cell `a` in `s` comes to a cell whose read is a failing poll. -/
def PutsFails (a : Word) (s : State) : Prop := ∃ n b t, PutsRunsOn n a s b t ∧ ReadFails b t

/-- The loop of PUTSP likewise. -/
def PutspFails (a : Word) (s : State) : Prop := ∃ n b t, PutspRunsOn n a s b t ∧ ReadFails b t

/-- The execute phase of `i` in `s` makes a memory read that is a failing poll (60_exceptions.md R184(b)). -/
def ExecutePollFails (i : Instr) (s : State) : Prop :=
  match i with
  | .ld _ off9 | .sti _ off9 => ReadFails (offset s.pc off9) s
  | .ldr _ baseR off6 => ReadFails (offset (s.reg baseR) off6) s
  | .ldi _ off9 => ReadFails (offset s.pc off9) s ∨ ∃ ea t, ReadsAs (offset s.pc off9) ea s t ∧ ReadFails ea t
  | .puts => PutsFails (s.reg 0) s.link
  | .putsp => PutspFails (s.reg 0) s.link
  | _ => False

/-- The step from `s` makes a memory read that is a failing poll: in its fetch, in the execute phase of the word it fetched,
or in the scan it goes on with (R184(b)). -/
def PollFailsIn (s : State) : Prop :=
  (s.wait = none ∧ (ReadFails s.pc s ∨ ∃ w u, fetch s = .ok w u ∧ ExecutePollFails (decode w) u)) ∨
  (∃ a, s.wait = some (.puts a) ∧ PutsFails a s.takeUp) ∨ (∃ a, s.wait = some (.putsp a) ∧ PutspFails a s.takeUp)

/-- The step from `s` is that of a GETC or IN with the word `w`, just fetched or waiting, whose request for a byte answers
`Error` (R184(a)). -/
def ReadRequestFailsIn (w : Word) (s : State) : Prop :=
  (s.wait = none ∧ ∃ u, fetch s = .ok w u ∧ (decode w = .getc ∨ decode w = .inChar) ∧ inRead u.input = .error) ∨
  ((s.wait = some .getc ∨ s.wait = some .inChar) ∧ w = s.ir ∧ inRead s.input = .error)

/-- The cell `k` places after `a`, wrapping. -/
def nth (s : State) (a : Word) (k : Nat) : Word := s.cell (a + BitVec.ofNat 16 k)

end Sys2Proof.Claims

open Sys2Proof.Claims

/-! ### Encoding -/

/-- Words written out bit by bit from 30_encoding.md R74 to R83 decode to the instruction they stand for, one for every
opcode, form and trap vector, and one for an unknown vector. The opcode and vector numbers and the bits that pick a form
are the spec's general knowledge (logs 1 to 3), the order of n, z, p in a BR is log 27, and RET as a term of its own is
log 11. -/
def Obligations.WordsWrittenOutFromTheFormatsDecode : Prop :=
  decode 0b0001_010_011_0_00_100#16 = .addReg 2 3 4 ∧
  decode 0b0001_001_001_1_11111#16 = .addImm 1 1 31 ∧
  decode 0b0101_011_001_0_00_010#16 = .andReg 3 1 2 ∧
  decode 0b0101_101_001_1_01010#16 = .andImm 5 1 10 ∧
  decode 0b1001_100_101_111111#16 = .not 4 5 ∧
  decode 0b0000_001_111111011#16 = .br false false true 0x1FB ∧
  decode 0b1100_000_010_000000#16 = .jmp 2 ∧
  decode 0b1100_000_111_000000#16 = .ret ∧
  decode 0b0100_1_00000000100#16 = .jsr 4 ∧
  decode 0b0100_0_00_010_000000#16 = .jsrr 2 ∧
  decode 0b0010_010_000000101#16 = .ld 2 5 ∧
  decode 0b1010_000_000000100#16 = .ldi 0 4 ∧
  decode 0b0110_011_001_111111#16 = .ldr 3 1 63 ∧
  decode 0b1110_001_000001010#16 = .lea 1 10 ∧
  decode 0b0011_111_000000000#16 = .st 7 0 ∧
  decode 0b1011_000_000000011#16 = .sti 0 3 ∧
  decode 0b0111_100_110_000010#16 = .str 4 6 2 ∧
  decode 0b1111_0000_00100000#16 = .getc ∧
  decode 0b1111_0000_00100001#16 = .out ∧
  decode 0b1111_0000_00100010#16 = .puts ∧
  decode 0b1111_0000_00100011#16 = .inChar ∧
  decode 0b1111_0000_00100100#16 = .putsp ∧
  decode 0b1111_0000_00100101#16 = .halt ∧
  decode 0b1111_0000_11111111#16 = .trap 0xFF ∧
  decode 0b1000_000000000000#16 = .rti ∧
  decode 0b1101_101010111100#16 = .res

/-- 30_encoding.md R96, both halves: `decode(encode(i)) = i` for every well-formed instruction, and `encode(decode(w))` is
`w` with the ignored bits (R86) cleared. -/
def Obligations.DecodeAndEncodeAgree : Prop :=
  (∀ i : Instr, i.WellFormed → decode (encode i) = i) ∧ (∀ w : Word, encode (decode w) = clearIgnored w)

/-- Every word decodes to a well-formed instruction, so `WellFormed` says which terms the machine can meet. -/
def Obligations.DecodedInstructionsAreWellFormed : Prop := ∀ w : Word, (decode w).WellFormed

/-- 30_encoding.md R91, the partition of all 65536 words, and 40_instruction_cycle.md R104, the whole decode function: for
every word, what its opcode number, the bit that picks the form, and its trap vector number make of it. The numbers are the
spec's general knowledge (logs 1 to 3); the order of n, z, p in a BR is log 27; that JMP with base R7 is a term of its own
is log 11. -/
def Obligations.EveryWordIsInstructionHaltSignalOrError : Prop :=
  ∀ w : Word,
    ((field w 12 4).toNat = 0x8 ∨ (field w 12 4).toNat = 0xD → decodeResult w = .decodeError .reservedOpcode) ∧
    ((field w 12 4).toNat = 0xF → (field w 0 8).toNat = 0x25 → decodeResult w = .haltSignal) ∧
    ((field w 12 4).toNat = 0xF → ((field w 0 8).toNat < 0x20 ∨ 0x25 < (field w 0 8).toNat) →
      decodeResult w = .decodeError .invalidTrapVector) ∧
    ((field w 12 4).toNat ≠ 0x8 → (field w 12 4).toNat ≠ 0xD →
      ((field w 12 4).toNat = 0xF → 0x20 ≤ (field w 0 8).toNat ∧ (field w 0 8).toNat ≤ 0x24) →
      decodeResult w = .instr (decode w)) ∧
    ((field w 12 4).toNat = 0x0 → decode w = .br (w.getLsbD 11) (w.getLsbD 10) (w.getLsbD 9) (field w 0 9)) ∧
    ((field w 12 4).toNat = 0x1 → decode w =
      if w.getLsbD 5 then .addImm (field w 9 3) (field w 6 3) (field w 0 5)
      else .addReg (field w 9 3) (field w 6 3) (field w 0 3)) ∧
    ((field w 12 4).toNat = 0x2 → decode w = .ld (field w 9 3) (field w 0 9)) ∧
    ((field w 12 4).toNat = 0x3 → decode w = .st (field w 9 3) (field w 0 9)) ∧
    ((field w 12 4).toNat = 0x4 → decode w = if w.getLsbD 11 then .jsr (field w 0 11) else .jsrr (field w 6 3)) ∧
    ((field w 12 4).toNat = 0x5 → decode w =
      if w.getLsbD 5 then .andImm (field w 9 3) (field w 6 3) (field w 0 5)
      else .andReg (field w 9 3) (field w 6 3) (field w 0 3)) ∧
    ((field w 12 4).toNat = 0x6 → decode w = .ldr (field w 9 3) (field w 6 3) (field w 0 6)) ∧
    ((field w 12 4).toNat = 0x7 → decode w = .str (field w 9 3) (field w 6 3) (field w 0 6)) ∧
    ((field w 12 4).toNat = 0x8 → decode w = .rti) ∧
    ((field w 12 4).toNat = 0x9 → decode w = .not (field w 9 3) (field w 6 3)) ∧
    ((field w 12 4).toNat = 0xA → decode w = .ldi (field w 9 3) (field w 0 9)) ∧
    ((field w 12 4).toNat = 0xB → decode w = .sti (field w 9 3) (field w 0 9)) ∧
    ((field w 12 4).toNat = 0xC → decode w = if (field w 6 3).toNat = 7 then .ret else .jmp (field w 6 3)) ∧
    ((field w 12 4).toNat = 0xD → decode w = .res) ∧
    ((field w 12 4).toNat = 0xE → decode w = .lea (field w 9 3) (field w 0 9)) ∧
    ((field w 12 4).toNat = 0xF →
      ((field w 0 8).toNat = 0x20 → decode w = .getc) ∧ ((field w 0 8).toNat = 0x21 → decode w = .out) ∧
      ((field w 0 8).toNat = 0x22 → decode w = .puts) ∧ ((field w 0 8).toNat = 0x23 → decode w = .inChar) ∧
      ((field w 0 8).toNat = 0x24 → decode w = .putsp) ∧ ((field w 0 8).toNat = 0x25 → decode w = .halt) ∧
      ((field w 0 8).toNat < 0x20 ∨ 0x25 < (field w 0 8).toNat → decode w = .trap (field w 0 8)))

/-- 30_encoding.md R86: a word with any value in the ignored bits is the same instruction as the word with zeros there (the
spec's decision D16, log 21). -/
def Obligations.IgnoredBitsDoNotChangeTheInstruction : Prop := ∀ w : Word, decode (clearIgnored w) = decode w

/-! ### Words, registers, flags -/

/-- 00_scope.md R7: the formula of `sext_n`, its reading as the signed value, its effect bit by bit, `sext_16(v) = v`, and
`zext_n`. -/
def Obligations.SignExtensionKeepsTheSignedValue : Prop :=
  ∀ (n : Nat) (v : BitVec n), 1 ≤ n → n ≤ 16 →
    sext v = (if v.getLsbD (n - 1) then v.setWidth 16 ||| BitVec.ofNat 16 (0xFFFF * 2 ^ n) else v.setWidth 16) ∧
    (sext v).toInt = v.toInt ∧
    (∀ k, k < 16 → (sext v).getLsbD k = if k < n then v.getLsbD k else v.getLsbD (n - 1)) ∧
    ((sext v).getLsbD 15 = v.getLsbD (n - 1)) ∧
    (n = 16 → (sext v).toNat = v.toNat) ∧
    (zext v).toNat = v.toNat

/-- 10_state.md R13: each of the eight registers holds the latest write to it, a write changes no other register, and a
register nothing has written reads 0. -/
def Obligations.RegistersHoldTheLatestWrite : Prop :=
  (∀ (s : State) (r : Reg) (v : Word), (s.setReg r v).reg r = v ∧ SameRegsBut [r] s (s.setReg r v)) ∧
  (∀ r : Reg, State.reset.reg r = 0#16)

/-- 40_instruction_cycle.md R108: `setcc(v)` writes COND by the range `v` lies in, and nothing else. -/
def Obligations.SetccFollowsTheRangeOfTheWord : Prop :=
  ∀ (s : State) (v : Word), FlagOf v (s.setcc v).cond ∧ SameRegs s (s.setcc v) ∧ (s.setcc v).pc = s.pc ∧
    SameMemory s (s.setcc v) ∧ SameChannels s (s.setcc v) ∧ SameControl s (s.setcc v)

/-! ### Arithmetic and logic -/

/-- 41_arithmetic_logic.md R121, R122: ADD writes the sum modulo 2^16 to DR, whatever registers coincide, sets COND from
it and changes nothing else. -/
def Obligations.AddWritesTheSumModulo65536 : Prop :=
  (∀ (dr sr1 sr2 : Reg) (s : State), ∃ t, exec (.addReg dr sr1 sr2) s = .next t ∧
    Defines dr (BitVec.ofNat 16 (((s.reg sr1).toNat + (s.reg sr2).toNat) % 65536)) s t) ∧
  (∀ (dr sr1 : Reg) (imm5 : BitVec 5) (s : State), ∃ t, exec (.addImm dr sr1 imm5) s = .next t ∧
    Defines dr (offset (s.reg sr1) imm5) s t)

/-- R123, R124: AND writes the bitwise AND, the immediate sign-extended (bits 15:5 are its bit 4). -/
def Obligations.AndWritesTheBitwiseAnd : Prop :=
  (∀ (dr sr1 sr2 : Reg) (s : State), ∃ t v, exec (.andReg dr sr1 sr2) s = .next t ∧ Defines dr v s t ∧
    ∀ k, k < 16 → v.getLsbD k = ((s.reg sr1).getLsbD k && (s.reg sr2).getLsbD k)) ∧
  (∀ (dr sr1 : Reg) (imm5 : BitVec 5) (s : State), ∃ t v, exec (.andImm dr sr1 imm5) s = .next t ∧ Defines dr v s t ∧
    ∀ k, k < 16 → v.getLsbD k = ((s.reg sr1).getLsbD k && imm5.getLsbD (min k 4)))

/-- R125: NOT inverts all 16 bits: the result is 0xFFFF minus the source. -/
def Obligations.NotWritesTheComplement : Prop :=
  ∀ (dr sr : Reg) (s : State), ∃ t, exec (.not dr sr) s = .next t ∧
    Defines dr (BitVec.ofNat 16 (0xFFFF - (s.reg sr).toNat)) s t

/-! ### Control transfer -/

/-- 42_control_transfer.md R131: BR is taken when no condition bit is set or the bit of the current COND is; then PC
becomes the incremented PC plus the signed offset, otherwise it stays; nothing else changes. -/
def Obligations.BrIsTakenByItsConditionBits : Prop :=
  ∀ (n z p : Bool) (off9 : BitVec 9) (s : State), ∃ t, exec (.br n z p off9) s = .next t ∧
    ((n = false ∧ z = false ∧ p = false) ∨ (n = true ∧ s.cond = .negative) ∨ (z = true ∧ s.cond = .zero) ∨
      (p = true ∧ s.cond = .positive) → Transfers (offset s.pc off9) [] s t) ∧
    (¬((n = false ∧ z = false ∧ p = false) ∨ (n = true ∧ s.cond = .negative) ∨ (z = true ∧ s.cond = .zero) ∨
      (p = true ∧ s.cond = .positive)) → Transfers s.pc [] s t)

/-- 10_state.md R22: with the codes POSITIVE 1, ZERO 2, NEGATIVE 4 (the spec's general knowledge, log 27) a BR is taken
when `n z p` is zero or has a bit in common with COND's code. -/
def Obligations.BranchConditionAgreesWithTheOneHotCodes : Prop :=
  ∀ (n z p : Bool) (c : Cond),
    branchTaken n z p c = true ↔
      BitVec.ofBool n ++ BitVec.ofBool z ++ BitVec.ofBool p = 0#3 ∨
      (BitVec.ofBool n ++ BitVec.ofBool z ++ BitVec.ofBool p) &&& c.code ≠ 0#3

/-- R132, R133: JMP sets PC to its base register, RET to R7; nothing else changes. -/
def Obligations.JmpAndRetSetPcFromTheBaseRegister : Prop :=
  (∀ (baseR : Reg) (s : State), ∃ t, exec (.jmp baseR) s = .next t ∧ Transfers (s.reg baseR) [] s t) ∧
  (∀ s : State, ∃ t, exec .ret s = .next t ∧ Transfers (s.reg 7) [] s t)

/-- R134: JSR writes the incremented PC to R7 and adds the signed offset to PC; COND and the rest stay. -/
def Obligations.JsrLinksAndTransfers : Prop :=
  ∀ (off11 : BitVec 11) (s : State), ∃ t, exec (.jsr off11) s = .next t ∧
    t.reg 7 = s.pc ∧ Transfers (offset s.pc off11) [7] s t

/-- R135: JSRR writes the link first and reads the base register after, so with base R7 it does not transfer (the spec's
decision D20, log 22). -/
def Obligations.JsrrLinksBeforeItReadsTheBase : Prop :=
  ∀ (baseR : Reg) (s : State), ∃ t, exec (.jsrr baseR) s = .next t ∧
    t.reg 7 = s.pc ∧ Transfers (if baseR = 7 then s.pc else s.reg baseR) [7] s t

/-! ### Memory and the keyboard cells -/

/-- 20_memory.md R44, R45: a read of any cell but KBSR answers its content and changes nothing; a read of KBSR polls and
answers 0x8000 or 0x0000, or stops the machine with InputError(KBSR_ADDR) and no cell written (decisions D9, D10 of the
spec, log 23; the channel's answers are the model's `inPoll`, log 13). -/
def Obligations.MemoryReadPollsOnlyAtKeyboardStatus : Prop :=
  ∀ (a : Word) (s : State),
    (¬ ReadFails a s → ∃ v u, memRead a s = .ok v u ∧ ReadsAs a v s u) ∧
    (ReadFails a s → ∃ u, memRead a s = .stop u ∧ StopsWith .inputError config.kbsrAddr s u)

/-- 20_memory.md R46 (b), (c): READY is no latch. After a read of KBSR that found a byte, a second read with nothing more
to poll answers 0x0000 while KBDR still holds the byte; a second read that finds another byte overwrites KBDR; and reading
KBDR changes nothing. The channel is the model's event list (log 13). -/
def Obligations.ReadyBitIsNotLatched : Prop :=
  ∀ (s : State) (b c : Byte) (rest : List InEvent),
    (s.input = [.byte b] → ∃ u t, memRead config.kbsrAddr s = .ok 0x8000#16 u ∧
      memRead config.kbsrAddr u = .ok 0x0000#16 t ∧ t.cell config.kbdrAddr = b.setWidth 16 ∧
      memRead config.kbdrAddr t = .ok (b.setWidth 16) t) ∧
    (s.input = .byte b :: .byte c :: rest → ∃ u t, memRead config.kbsrAddr s = .ok 0x8000#16 u ∧
      memRead config.kbsrAddr u = .ok 0x8000#16 t ∧ t.cell config.kbdrAddr = c.setWidth 16 ∧ t.input = rest)

/-- 20_memory.md R47: MemWrite replaces all 16 bits of one cell, at every address, and has no other effect. That KBSR and
KBDR are among those addresses is R48, the spec's decision D21 (log 25). -/
def Obligations.MemoryWriteReplacesOneCell : Prop := ∀ (a v : Word) (s : State), Stores a v s (s.memWrite a v)

/-- Two memories in canonical form that read alike at every address are the same data (the model's representation, log
10). -/
def Obligations.CanonicalMemoriesThatReadAlikeAreEqual : Prop :=
  ∀ m m' : Memory, Memory.wf m → Memory.wf m' → (∀ a : Word, Memory.read m a.toNat = Memory.read m' a.toNat) → m = m'

/-! ### Loads and stores -/

/-- 43_load_store.md R141: LD reads the cell at incremented PC plus signed offset, writes it to DR and sets COND from it;
if that read is a failing poll the machine stops, DR and COND unwritten. The poll is the model's event list `inPoll` (log
13), it never waits (log 23), its byte is zero-extended in KBDR (log 26), and the stop is a next state (log 12). -/
def Obligations.LdLoadsThePcRelativeCell : Prop :=
  ∀ (dr : Reg) (off9 : BitVec 9) (s : State),
    (¬ ReadFails (offset s.pc off9) s → ∃ v u t, ReadsAs (offset s.pc off9) v s u ∧
      exec (.ld dr off9) s = .next t ∧ Defines dr v u t) ∧
    (ReadFails (offset s.pc off9) s → ∃ t, exec (.ld dr off9) s = .next t ∧ StopsWith .inputError config.kbsrAddr s t)

/-- R142: LDI reads the pointer, then the datum at the pointer's value, in that order; COND is from the datum; either read
may be a failing poll. The poll is the model's event list `inPoll` (log 13), it never waits (log 23), its byte is
zero-extended in KBDR (log 26), and the stop is a next state (log 12). -/
def Obligations.LdiLoadsThroughThePointer : Prop :=
  ∀ (dr : Reg) (off9 : BitVec 9) (s : State),
    (ReadFails (offset s.pc off9) s → ∃ t, exec (.ldi dr off9) s = .next t ∧ StopsWith .inputError config.kbsrAddr s t) ∧
    (¬ ReadFails (offset s.pc off9) s → ∃ ea u, ReadsAs (offset s.pc off9) ea s u ∧
      (¬ ReadFails ea u → ∃ v w t, ReadsAs ea v u w ∧ exec (.ldi dr off9) s = .next t ∧ Defines dr v w t) ∧
      (ReadFails ea u → ∃ t, exec (.ldi dr off9) s = .next t ∧ StopsWith .inputError config.kbsrAddr u t))

/-- R143: LDR reads the cell at base register plus signed offset; the base is read before DR is written, and stays unless
it is DR; if that read is a failing poll the machine stops, DR and COND unwritten. The poll is the model's event list
`inPoll` (log 13), it never waits (log 23), its byte is zero-extended in KBDR (log 26), and the stop is a next state (log
12). -/
def Obligations.LdrLoadsTheBasePlusOffsetCell : Prop :=
  ∀ (dr baseR : Reg) (off6 : BitVec 6) (s : State),
    (¬ ReadFails (offset (s.reg baseR) off6) s → ∃ v u t, ReadsAs (offset (s.reg baseR) off6) v s u ∧
      exec (.ldr dr baseR off6) s = .next t ∧ Defines dr v u t) ∧
    (ReadFails (offset (s.reg baseR) off6) s →
      ∃ t, exec (.ldr dr baseR off6) s = .next t ∧ StopsWith .inputError config.kbsrAddr s t)

/-- R144: LEA writes the address itself, with no memory access, and sets COND from it. -/
def Obligations.LeaWritesTheAddressAndTheFlags : Prop :=
  ∀ (dr : Reg) (off9 : BitVec 9) (s : State), ∃ t, exec (.lea dr off9) s = .next t ∧ Defines dr (offset s.pc off9) s t

/-- R145, R147: ST and STR store SR in one cell, at every address, and change no register, flag, channel or other cell.
That a store to KBSR or KBDR is such a plain write and never polls is R48, the spec's decision D21 (log 25). -/
def Obligations.StAndStrStoreOneCell : Prop :=
  (∀ (sr : Reg) (off9 : BitVec 9) (s : State), ∃ t, exec (.st sr off9) s = .next t ∧
    Stores (offset s.pc off9) (s.reg sr) s t) ∧
  (∀ (sr baseR : Reg) (off6 : BitVec 6) (s : State), ∃ t, exec (.str sr baseR off6) s = .next t ∧
    Stores (offset (s.reg baseR) off6) (s.reg sr) s t)

/-- R146: STI reads the pointer, then stores SR at the pointer's value; if the pointer read is a failing poll the machine
stops and no cell is written. The poll is the model's event list `inPoll` (log 13), it never waits (log 23), its byte is
zero-extended in KBDR (log 26), and the stop is a next state (log 12). A store through a pointer to a keyboard cell is a
plain write (log 25). -/
def Obligations.StiStoresThroughThePointer : Prop :=
  ∀ (sr : Reg) (off9 : BitVec 9) (s : State),
    (¬ ReadFails (offset s.pc off9) s → ∃ ea u t, ReadsAs (offset s.pc off9) ea s u ∧
      exec (.sti sr off9) s = .next t ∧ Stores ea (s.reg sr) u t) ∧
    (ReadFails (offset s.pc off9) s → ∃ t, exec (.sti sr off9) s = .next t ∧ StopsWith .inputError config.kbsrAddr s t)

/-- 20_memory.md R59: a store is seen by the very next fetch. A ST to the cell at PC (offset 0) is followed by the
instruction just stored, wherever PC is but at KBSR (at KBDR the store is a plain write, log 25). -/
def Obligations.StoredWordIsFetchedNext : Prop :=
  ∀ (sr : Reg) (s : State), s.run = .running → s.wait = none → s.pc ≠ config.kbsrAddr →
    ∃ t, exec (.st sr 0) s = .next t ∧
      step t = exec (decode (s.reg sr))
        { t with pc := s.pc + 1#16, ir := s.reg sr, steps := s.steps + 1 }

/-! ### The channels and the TRAP services -/

/-- 10_state.md R31, R32 on the model's event list (log 13): a poll answers the next byte or that none is there now, and
never skips a byte; a blocking read waits over every pause and takes the first byte; a channel with no byte left makes it
wait; a broken stream answers Error. -/
def Obligations.InputRequestsTakeBytesInOrder : Prop :=
  ∀ (k : Nat) (b : Byte) (rest : List InEvent),
    inPoll (.byte b :: rest) = .byte b rest ∧
    inPoll (List.replicate (k + 1) .pause ++ rest) = .none (List.replicate k .pause ++ rest) ∧
    inPoll [] = .none [] ∧ inPoll (.error :: rest) = .error ∧
    inRead (List.replicate k .pause ++ .byte b :: rest) = .byte b rest ∧
    inRead (List.replicate k .pause) = .waiting [] ∧
    inRead (List.replicate k .pause ++ .error :: rest) = .error ∧
    inPoll (.eof :: rest) =
      (match config.inEofPolicy with | .error => .error | .block => .none (.eof :: rest)) ∧
    inRead (List.replicate k .pause ++ .eof :: rest) =
      (match config.inEofPolicy with | .error => .error | .block => .waiting (.eof :: rest))

/-- 44_trap.md R157: GETC links R7, takes one byte and puts it zero-extended in R0 (log 26), with no echo; COND follows
`TRAP_IN_SETS_FLAGS` (log 7); with no byte yet it waits, R7 already linked (log 14); on an error it stops with InputError
and the instruction word, R0 unchanged. -/
def Obligations.GetcTakesOneByteIntoR0 : Prop :=
  ∀ s : State,
    (∀ b rest, inRead s.input = .byte b rest → ∃ t, exec .getc s = .next t ∧
      t.reg 7 = s.pc ∧ t.reg 0 = b.setWidth 16 ∧ SameRegsBut [7, 0] s t ∧ t.pc = s.pc ∧
      (if config.trapInSetsFlags then FlagOf (b.setWidth 16) t.cond else t.cond = s.cond) ∧
      SameMemory s t ∧ t.input = rest ∧ t.output = s.output ∧ SameControl s t) ∧
    (∀ rest, inRead s.input = .waiting rest → ∃ t, exec .getc s = .next t ∧
      t.wait = some .getc ∧ t.reg 7 = s.pc ∧ SameRegsBut [7] s t ∧ t.pc = s.pc ∧ t.cond = s.cond ∧
      SameMemory s t ∧ t.input = rest ∧ t.output = s.output ∧ t.run = s.run ∧ t.ir = s.ir ∧ t.steps = s.steps ∧
      t.loaded = s.loaded) ∧
    (inRead s.input = .error → ∃ t, exec .getc s = .next t ∧
      t.run = .halted .inputError s.ir ∧ t.reg 7 = s.pc ∧ SameRegsBut [7] s t ∧ t.pc = s.pc ∧ t.cond = s.cond ∧
      SameMemory s t ∧ SameChannels s t ∧ t.wait = s.wait ∧ t.ir = s.ir ∧ t.steps = s.steps ∧ t.loaded = s.loaded)

/-- R158: OUT links R7 and sends bits 7:0 of R0; R0 is unchanged. That the output history gets no flush mark is the spec's
choice (log 18). -/
def Obligations.OutSendsTheLowByteOfR0 : Prop :=
  ∀ s : State, ∃ t, exec .out s = .next t ∧
    t.reg 7 = s.pc ∧ SameRegsBut [7] s t ∧ t.pc = s.pc ∧ t.cond = s.cond ∧ SameMemory s t ∧ t.input = s.input ∧
    t.output = s.output ++ [.byte (BitVec.ofNat 8 ((s.reg 0).toNat % 256))] ∧ SameControl s t

/-- R160: IN links R7, sends the prompt and a flush, takes one byte, echoes it, flushes, and puts it zero-extended in R0
(logs 18, 26). The prompt is `config.inPrompt`, whatever its bytes (log 8). While it waits, and when the stream fails, the
link and the prompt are done and R0 is unchanged. -/
def Obligations.InPromptsTakesAndEchoesOneByte : Prop :=
  ∀ s : State,
    (∀ b rest, inRead s.input = .byte b rest → ∃ t, exec .inChar s = .next t ∧
      t.reg 7 = s.pc ∧ t.reg 0 = b.setWidth 16 ∧ SameRegsBut [7, 0] s t ∧ t.pc = s.pc ∧
      (if config.trapInSetsFlags then FlagOf (b.setWidth 16) t.cond else t.cond = s.cond) ∧
      SameMemory s t ∧ t.input = rest ∧
      t.output = s.output ++ config.inPrompt.map .byte ++ [.flush, .byte b, .flush] ∧ SameControl s t) ∧
    (∀ rest, inRead s.input = .waiting rest → ∃ t, exec .inChar s = .next t ∧
      t.wait = some .inChar ∧ t.reg 7 = s.pc ∧ SameRegsBut [7] s t ∧ t.pc = s.pc ∧ t.cond = s.cond ∧
      SameMemory s t ∧ t.input = rest ∧ t.output = s.output ++ config.inPrompt.map .byte ++ [.flush] ∧
      t.run = s.run ∧ t.ir = s.ir ∧ t.steps = s.steps ∧ t.loaded = s.loaded) ∧
    (inRead s.input = .error → ∃ t, exec .inChar s = .next t ∧
      t.run = .halted .inputError s.ir ∧ t.reg 7 = s.pc ∧ SameRegsBut [7] s t ∧ t.pc = s.pc ∧ t.cond = s.cond ∧
      SameMemory s t ∧ t.input = s.input ∧ t.output = s.output ++ config.inPrompt.map .byte ++ [.flush] ∧
      t.wait = s.wait ∧ t.ir = s.ir ∧ t.steps = s.steps ∧ t.loaded = s.loaded)

/-- R159 for a string of `n` characters whose cells are not KBSR: PUTS links R7 and sends bits 7:0 of each cell up to the
zero cell, then flushes; R0 and everything else stay. That a character is the low byte of its cell is the
spec's decision D12 (log 24). A string that runs over KBSR is `StringScansRunToTheirEnd`. -/
def Obligations.PutsSendsTheStringAtR0 : Prop :=
  ∀ (s : State) (n : Nat), n < 65536 →
    (∀ k, k < n → nth s (s.reg 0) k ≠ 0#16) → nth s (s.reg 0) n = 0#16 →
    (∀ k, k ≤ n → s.reg 0 + BitVec.ofNat 16 k ≠ config.kbsrAddr) →
    ∃ t, exec .puts s = .next t ∧
      t.output = s.output ++ (List.range n).map (fun k => .byte (lowByte (nth s (s.reg 0) k))) ++ [.flush] ∧
      t.reg 7 = s.pc ∧ SameRegsBut [7] s t ∧ t.pc = s.pc ∧ t.cond = s.cond ∧ SameMemory s t ∧ t.input = s.input ∧
      SameControl s t

/-- R161 for a string of `n` cells with two characters each, not at KBSR, and a last cell with no or one character: PUTSP
sends low byte then high byte of each, then the low byte of a non-zero last cell whose high byte is zero, then flushes. The
end at a zero high byte is the spec's decision D14 (log 24). -/
def Obligations.PutspSendsThePackedStringAtR0 : Prop :=
  ∀ (s : State) (n : Nat), n < 65536 →
    (∀ k, k < n → highByte (nth s (s.reg 0) k) ≠ 0#8) → highByte (nth s (s.reg 0) n) = 0#8 →
    (∀ k, k ≤ n → s.reg 0 + BitVec.ofNat 16 k ≠ config.kbsrAddr) →
    ∃ t, exec .putsp s = .next t ∧
      t.output = s.output ++
        (List.range n).flatMap (fun k =>
          [.byte (lowByte (nth s (s.reg 0) k)), .byte (highByte (nth s (s.reg 0) k))]) ++
        (if nth s (s.reg 0) n = 0#16 then [] else [.byte (lowByte (nth s (s.reg 0) n))]) ++ [.flush] ∧
      t.reg 7 = s.pc ∧ SameRegsBut [7] s t ∧ t.pc = s.pc ∧ t.cond = s.cond ∧ SameMemory s t ∧ t.input = s.input ∧
      SameControl s t

/-- R159, R161 for every string, KBSR among its cells or not, however long: where the loop of the rule, with no bound on
its length, ends in a state, the machine reaches exactly that state, after the TRAP's execute phase and as many further
steps of the model as its passes over memory take (log 15). That a string cell at KBSR polls is log 23 (the spec's decision
D9); which byte of a cell is its character, and where PUTSP ends, is log 24. -/
def Obligations.StringScansRunToTheirEnd : Prop :=
  ∀ s u : State, s.run = .running → s.wait = none →
    (PutsScan (s.reg 0) s.link u → ∃ t k, exec .puts s = .next t ∧ runSteps k t = some u) ∧
    (PutspScan (s.reg 0) s.link u → ∃ t k, exec .putsp s = .next t ∧ runSteps k t = some u)

/-- R159(e), R161(c), R112: a scan of PUTS or PUTSP that meets no terminator does not end. When the first `65536 * (k + 1)`
cells of PUTS's loop (the cells of memory `k + 1` times over) are no terminator, the machine is still RUNNING `k` steps of
the model after the TRAP's execute phase, inside the same instruction, about to read the next cell, with a byte sent for
every cell; the same for PUTSP and one time over all cells (the next time over it would end at KBDR, whose high byte a poll
has cleared). A step taken in the middle of such a scan, whatever the environment has supplied since, goes on in the same
way. The passes are log 15, the polls at KBSR logs 13 and 23, the characters log 24. -/
def Obligations.ScanWithNoTerminatorStaysRunning : Prop :=
  ∀ (s : State) (a b : Word) (k : Nat) (u : State), s.run = .running →
    (s.wait = none → PutsRunsOn (65536 * (k + 1)) (s.reg 0) s.link b u → ∃ t, exec .puts s = .next t ∧
      runSteps k t = some (u.suspend (.puts b)) ∧ Unended s (65536 * (k + 1)) u) ∧
    (s.wait = some (.puts a) → PutsRunsOn 65536 a s.takeUp b u →
      step s = .next (u.suspend (.puts b)) ∧ Unended s 65536 u) ∧
    (s.wait = none → PutspRunsOn 65536 (s.reg 0) s.link b u →
      exec .putsp s = .next (u.suspend (.putsp b)) ∧ Unended s 65536 u) ∧
    (s.wait = some (.putsp a) → PutspRunsOn 65536 a s.takeUp b u →
      step s = .next (u.suspend (.putsp b)) ∧ Unended s 65536 u)

/-- R162: HALT flushes and stops with HaltTrap and the instruction word; R7 is written only when `HALT_LINKS` (log 6, the
spec's resolution C3); no byte is sent and nothing else changes. -/
def Obligations.HaltFlushesAndStops : Prop :=
  ∀ s : State, ∃ t, exec .halt s = .next t ∧
    t.run = .halted .haltTrap s.ir ∧ t.output = s.output ++ [.flush] ∧ t.input = s.input ∧
    (if config.haltLinks then t.reg 7 = s.pc ∧ SameRegsBut [7] s t else SameRegs s t) ∧
    t.pc = s.pc ∧ t.cond = s.cond ∧ SameMemory s t ∧ t.wait = s.wait ∧ t.ir = s.ir ∧ t.steps = s.steps ∧ t.loaded = s.loaded

/-- R163: a TRAP with an unknown vector stops with InvalidTrapVector and the instruction word: R7 is not written, nothing
is output or flushed. Which vectors are unknown is `config.trapMap` (log 3); the stop is a next state (log 12). -/
def Obligations.UnknownVectorStopsWithoutALink : Prop :=
  ∀ (vect8 : BitVec 8) (s : State), (Instr.trap vect8).WellFormed →
    ∃ t, exec (.trap vect8) s = .next t ∧ StopsWith .invalidTrapVector s.ir s t

/-- 60_exceptions.md R182: a word with opcode RTI or RES stops with ReservedOpcode and the instruction word; nothing else
changes. The stop is a next state (log 12); which opcodes they are is log 1. -/
def Obligations.ReservedOpcodesStop : Prop :=
  ∀ s : State, (∃ t, exec .rti s = .next t ∧ StopsWith .reservedOpcode s.ir s t) ∧
    (∃ t, exec .res s = .next t ∧ StopsWith .reservedOpcode s.ir s t)

/-! ### The step -/

/-- 40_instruction_cycle.md R101: a step of a RUNNING machine with no unfinished step reads the cell at PC, increments PC,
keeps the word, counts the step, and executes the decoded instruction; in particular, when the cell at PC (not KBSR) holds
the word of a well-formed instruction, the step is that instruction's exec. The word kept and the count are logs 16 and 17;
that a fetch from KBSR polls is log 23. -/
def Obligations.StepRunsTheDecodedInstruction : Prop :=
  ∀ s : State, s.run = .running → s.wait = none →
    (∀ w u, memRead s.pc { s with steps := s.steps + 1 } = .ok w u →
      step s = exec (decode w) { u with pc := u.pc + 1#16, ir := w }) ∧
    (s.pc ≠ config.kbsrAddr → step s = exec (decode (s.cell s.pc))
      { s with pc := s.pc + 1#16, ir := s.cell s.pc, steps := s.steps + 1 }) ∧
    (∀ i : Instr, i.WellFormed → s.pc ≠ config.kbsrAddr → s.cell s.pc = encode i → step s = exec i
      { s with pc := s.pc + 1#16, ir := encode i, steps := s.steps + 1 })

/-- R102, 60_exceptions.md R186: a fetch that fails stops with InputError(KBSR_ADDR), PC not incremented and nothing else
changed (the model's ghost count apart, log 17). That a fetch polls when PC is at KBSR, and so can fail, is log 23 (R49,
the spec's decision D9); the stop is a next state (log 12). -/
def Obligations.FailedFetchLeavesPc : Prop :=
  ∀ s : State, s.run = .running → s.wait = none → ReadFails s.pc s →
    ∃ t, step s = .next t ∧ StopsWith .inputError config.kbsrAddr { s with steps := s.steps + 1 } t

/-- R105, R106 at the level of a step: when the fetched word decodes to the halt-signal or to a decode error, the step ends
HALTED with that cause and the word, PC incremented, no cell and no register written (R7 by HALT only when `HALT_LINKS`),
and no byte sent (log 28). The stop is a next state (log 12); a fetch from KBSR polls first (log 23). -/
def Obligations.HaltAndDecodeErrorsEndTheStep : Prop :=
  ∀ (s u : State) (w : Word), s.run = .running → s.wait = none → fetch s = .ok w u →
    (decodeResult w = .haltSignal → ∃ t, step s = .next t ∧ t.run = .halted .haltTrap w ∧
      (if config.haltLinks then t.reg 7 = u.pc ∧ SameRegsBut [7] s t else SameRegs s t) ∧ t.pc = s.pc + 1#16 ∧
      t.cond = s.cond ∧ SameMemory u t ∧ t.output = s.output ++ [.flush]) ∧
    (∀ e, decodeResult w = .decodeError e → ∃ t, step s = .next t ∧
      t.run = .halted (match e with | .reservedOpcode => .reservedOpcode | .invalidTrapVector => .invalidTrapVector) w ∧
      SameRegs s t ∧ t.pc = s.pc + 1#16 ∧ t.cond = s.cond ∧ SameMemory u t ∧ t.output = s.output)

/-- 70_reset_and_hazards.md R205: HALTED is terminal; nothing changes any more (the model's step answers the same state,
log 12). -/
def Obligations.HaltedIsTerminal : Prop :=
  ∀ (s : State) (c : Cause) (info : Word), s.run = .halted c info → ∀ k, runSteps k s = some s

/-- 30_encoding.md R89: the word 0x0000, which reset leaves in every cell, is a BR that does nothing but advance PC. -/
def Obligations.ZeroWordOnlyAdvancesPc : Prop :=
  ∀ s : State, s.run = .running → s.wait = none → s.pc ≠ config.kbsrAddr → s.cell s.pc = 0#16 →
    ∃ t, step s = .next t ∧ t.pc = s.pc + 1#16 ∧ SameRegs s t ∧ t.cond = s.cond ∧ SameMemory s t ∧ SameChannels s t ∧
      t.run = .running ∧ t.wait = none

/-- 40_instruction_cycle.md R112: splitting a step that waits gives the same final state. GETC or IN with no byte there
waits and changes nothing while it waits. When a byte then arrives, the next step ends in the very state that the
instruction would have reached at once had the byte been there. When the stream breaks instead (or ends, where its end is
an error, log 9), the next step stops as the instruction would have at once (which leaves the pauses before the error in
the model's list, log 13), and as 60_exceptions.md R184, R186 say: InputError with the instruction word, R7 the link, R0
unchanged, IN's prompt sent. The split is log 14, the stop as a next state log 12. -/
def Obligations.WaitingForInputSplitsOneStep : Prop :=
  ∀ (i : Instr) (s : State) (k : Nat), i = .getc ∨ i = .inChar → s.run = .running → s.wait = none →
    s.input = List.replicate k .pause →
    ∃ t, exec i s = .next t ∧ t.run = .running ∧ step t = .next t ∧
      (∀ b : Byte, ∃ u, step (t.supply [.byte b]) = .next u ∧ exec i (s.supply [.byte b]) = .next u ∧ u.wait = none) ∧
      (∀ e : InEvent, e = .error ∨ e = .eof ∧ config.inEofPolicy = .error →
        ∃ u, step (t.supply [e]) = .next u ∧ exec i (s.supply [e]) = .next { u with input := s.input ++ [e] } ∧
          u.run = .halted .inputError s.ir ∧ u.reg 7 = s.pc ∧ SameRegsBut [7] s u ∧ u.pc = s.pc ∧ u.cond = s.cond ∧
          SameMemory s u ∧ u.input = [e] ∧ u.output = t.output ∧ u.wait = none ∧ u.ir = s.ir ∧ u.steps = s.steps ∧
          u.loaded = s.loaded)

/-- 10_state.md R15, R19, R21, 44_trap.md R165 and 60_exceptions.md R186 for a step that goes on with an unfinished one: it
writes R0 and COND only for GETC and IN (COND as `TRAP_IN_SETS_FLAGS` says, log 7), never PC; a scan writes no cell but the
keyboard cells, GETC and IN none; GETC sends nothing; a step that stops leaves every register and COND; one that leaves the
step unfinished again is RUNNING. The split is logs 14 and 15. -/
def Obligations.ResumedStepWritesOnlyWhatItsInstructionMay : Prop :=
  ∀ (s : State) (u : Unfinished), s.run = .running → s.wait = some u → ∃ t, step s = .next t ∧
    SameRegsBut (if awaitsInput u then [0#3] else []) s t ∧ t.pc = s.pc ∧
    ((awaitsInput u && config.trapInSetsFlags) = false → t.cond = s.cond) ∧
    (∀ a, awaitsInput u = true ∨ (a ≠ config.kbsrAddr ∧ a ≠ config.kbdrAddr) → t.cell a = s.cell a) ∧
    (u = .getc → t.output = s.output) ∧ (t.run ≠ .running → SameRegs s t ∧ t.cond = s.cond ∧ t.wait = none) ∧
    (t.wait ≠ none → t.run = .running) ∧ t.ir = s.ir ∧ t.steps = s.steps ∧ t.loaded = s.loaded

/-! ### Whole-machine rules -/

/-- Every step of every state answers a next state: no access is refused, no instruction faults (20_memory.md R61,
60_exceptions.md R180; the model's reading of a fatal stop as a next state, log 12). -/
def Obligations.EveryStepAnswersANextState : Prop := ∀ s : State, ∃ t, step s = .next t

/-- 10_state.md R15: an instruction writes only the registers the table gives it. -/
def Obligations.RegisterWritesFollowTheTable : Prop :=
  ∀ (i : Instr) (s t : State), exec i s = .next t → SameRegsBut (regWrites i) s t

/-- 10_state.md R21, 40_instruction_cycle.md R109: COND is written only by ADD, AND, NOT, LD, LDI, LDR, LEA (and by GETC
and IN when `TRAP_IN_SETS_FLAGS`, log 7). -/
def Obligations.CondIsWrittenOnlyByTheListedInstructions : Prop :=
  ∀ (i : Instr) (s t : State), exec i s = .next t → mayWriteCond i = false → t.cond = s.cond

/-- 10_state.md R19: after the increment PC is written only by BR, JMP, RET, JSR, JSRR. -/
def Obligations.PcIsWrittenOnlyByTransfers : Prop :=
  ∀ (i : Instr) (s t : State), exec i s = .next t → mayWritePc i = false → t.pc = s.pc

/-- 20_memory.md R42, R45: every cell outside the stored one reads as before, but for the keyboard cells under an
instruction that reads memory; an instruction that reads none leaves those too. -/
def Obligations.MemoryIsWrittenOnlyByStoresAndPolls : Prop :=
  ∀ (i : Instr) (s t : State), exec i s = .next t → ∀ a : Word, a ∉ storesTo i s →
    (a ≠ config.kbsrAddr → a ≠ config.kbdrAddr → t.cell a = s.cell a) ∧ (readsMemory i = false → t.cell a = s.cell a)

/-- 10_state.md R33, 70_reset_and_hazards.md R206: a step never alters what was sent, it only appends; and it takes input
only from the front of the channel. -/
def Obligations.OutputOnlyGrowsAndInputIsTakenFromTheFront : Prop :=
  ∀ s t : State, step s = .next t → s.output <+: t.output ∧ t.input <:+ s.input

/-- 40_instruction_cycle.md R110, 60_exceptions.md R180, R184: a RUNNING machine becomes HALTED only by a fetched
halt-signal, a fetched reserved opcode, a fetched unknown vector, or a request to the input channel that failed, each with
its own cause and info: KBSR_ADDR for a poll that answered Error (in the fetch, a load, the pointer read of LDI or STI, a
string read), the instruction word for the request of a GETC or IN that answered Error; and a request fails only when the
channel holds an error or its end. A stop is a next state (log 12), the channel the model's event list (log 13), which
reads poll is log 23, and an unfinished step is logs 14 and 15. -/
def Obligations.OnlyTheFourCausesHaltTheMachine : Prop :=
  ∀ (s t : State) (c : Cause) (info : Word), s.run = .running → step s = .next t → t.run = .halted c info →
    (c = .inputError ∧ ((info = config.kbsrAddr ∧ PollFailsIn s) ∨ ReadRequestFailsIn info s) ∧
      (.error ∈ s.input ∨ .eof ∈ s.input)) ∨
    (s.wait = none ∧ ∃ u, fetch s = .ok info u ∧
      ((c = .haltTrap ∧ decodeResult info = .haltSignal) ∨
       (c = .reservedOpcode ∧ decodeResult info = .decodeError .reservedOpcode) ∨
       (c = .invalidTrapVector ∧ decodeResult info = .decodeError .invalidTrapVector)))

/-- Every step keeps the invariant: canonical memory, an unfinished step only on a RUNNING machine whose R7 holds the link,
which is PC (40_instruction_cycle.md R112), and a machine inside a step or stopped has begun a step (10_state.md R37). -/
def Obligations.StepKeepsTheInvariant : Prop := ∀ s t : State, s.Inv → step s = .next t → t.Inv

/-- The invariant holds after reset. -/
def Obligations.ResetMeetsTheInvariant : Prop := State.reset.Inv

/-- 10_state.md R29: there is no hidden state. The word of an earlier step, the count of steps and the mark that the
load port was used, fields of the model's own (logs 16, 17, 29), do not reach what a step does: two RUNNING machines
with no unfinished step that differ only in them step to states that differ only in them, and in the word only if the
fetch failed. -/
def Obligations.NoStateIsHiddenBetweenSteps : Prop :=
  ∀ (s : State) (w : Word) (n : Nat) (l : Bool), s.run = .running → s.wait = none →
    ∃ t t', step s = .next t ∧ step { s with ir := w, steps := n, loaded := l } = .next t' ∧
      t'.regs = t.regs ∧ t'.pc = t.pc ∧ t'.cond = t.cond ∧ t'.run = t.run ∧ t'.mem = t.mem ∧ t'.input = t.input ∧
      t'.output = t.output ∧ t'.wait = t.wait ∧ (¬ ReadFails s.pc s → t'.ir = t.ir)

/-! ### Reset and load -/

/-- 10_state.md R35: the values after reset that the spec gives. -/
def Obligations.ResetValues : Prop :=
  (∀ r : Reg, State.reset.reg r = 0x0000#16) ∧ State.reset.pc = 0x3000#16 ∧ State.reset.cond = .zero ∧
  State.reset.run = .running ∧ (∀ a : Word, State.reset.cell a = 0x0000#16) ∧ State.reset.output = []

/-- 20_memory.md R62, R63: the image of an origin and words that fit is loaded: word `k` at `origin + k`, every other cell
0x0000, and everything else as after reset, PC at `PC_START` (log 5). -/
def Obligations.LoadPlacesTheImageWords : Prop :=
  ∀ (origin : Word) (words : List Word), origin.toNat + words.length ≤ 65536 →
    ∃ s, launch (imageOf origin words) = .ready s ∧
      (∀ (k : Nat) (h : k < words.length), s.cell (origin + BitVec.ofNat 16 k) = words[k]) ∧
      (∀ a : Word, a.toNat < origin.toNat ∨ origin.toNat + words.length ≤ a.toNat → s.cell a = 0x0000#16) ∧
      SameRegs State.reset s ∧ s.pc = config.pcStart ∧ s.cond = .zero ∧ SameChannels State.reset s ∧
      s.run = .running ∧ s.wait = none ∧ s.ir = State.reset.ir ∧ s.steps = 0 ∧ Memory.wf s.mem

/-- 20_memory.md R62, R65, 10_state.md R36, 70_reset_and_hazards.md R206 ("after reset, before the first step, once"): a
load that fits writes its words into a machine that has begun no step and loaded no image, and nothing else but the mark
that closes the port (log 29). After it, after any step, and on a machine that is inside a step or HALTED, every load is
refused, so no word of it is written. -/
def Obligations.LoadPortOpensOnceBeforeTheFirstStep : Prop :=
  ∀ (s t : State) (origin : Word) (words : List Word),
    (s.run = .running → s.wait = none → s.steps = 0 → s.loaded = false → origin.toNat + words.length ≤ 65536 →
      ∃ u, s.load origin words = .ready u ∧
        (∀ (k : Nat) (h : k < words.length), u.cell (origin + BitVec.ofNat 16 k) = words[k]) ∧
        (∀ a : Word, a.toNat < origin.toNat ∨ origin.toNat + words.length ≤ a.toNat → u.cell a = s.cell a) ∧
        SameRegs s u ∧ u.pc = s.pc ∧ u.cond = s.cond ∧ SameChannels s u ∧ u.run = .running ∧ u.wait = none ∧
        u.ir = s.ir ∧ u.steps = 0 ∧ ∀ (o : Word) (ws : List Word), u.load o ws = .refused .portClosed) ∧
    (s.run ≠ .running ∨ s.wait ≠ none ∨ s.steps ≠ 0 ∨ s.loaded = true → s.load origin words = .refused .portClosed) ∧
    (s.Inv → step s = .next t → t.load origin words = .refused .portClosed)

/-- 20_memory.md R64: an image that would pass address 65535 is refused and does not wrap; so are a stream with an odd byte
left and one too short for the origin word (the spec's decision D22, log 20). -/
def Obligations.BadImagesAreRefused : Prop :=
  (∀ (origin : Word) (words : List Word), 65536 < origin.toNat + words.length →
    launch (imageOf origin words) = .refused .tooLarge) ∧
  (∀ (origin : Word) (words : List Word) (b : Byte), origin.toNat + words.length ≤ 65536 →
    launch (imageOf origin words ++ [b]) = .refused .shortRead) ∧
  launch [] = .refused .noOrigin ∧ (∀ b : Byte, launch [b] = .refused .noOrigin)
end

