-- ==== Sys2Proof/Laws/Encoding.lean ====
section
/-! SUPPORT. Reading back a field that was placed in a word (00_scope.md R5): the small lemmas of `field` and `place`. -/

namespace Sys2Proof

theorem field_or (x y : Word) (lo n : Nat) : field (x ||| y) lo n = field x lo n ||| field y lo n := by
  simp [field, BitVec.extractLsb'_or]

/-- A field placed below the bits read. -/
theorem field_place_low {n : Nat} (v : BitVec n) (a lo k : Nat) (h : a + n ≤ lo) : field (place v a) lo k = 0#k := by
  apply BitVec.eq_of_getLsbD_eq
  intro i hi
  simp only [field, place, BitVec.getLsbD_extractLsb', BitVec.getLsbD_shiftLeft, BitVec.getLsbD_setWidth]
  rw [BitVec.getLsbD_of_ge v _ (by omega)]
  simp

/-- A field placed above the bits read. -/
theorem field_place_high {n : Nat} (v : BitVec n) (a lo k : Nat) (h : lo + k ≤ a) : field (place v a) lo k = 0#k := by
  apply BitVec.eq_of_getLsbD_eq
  intro i hi
  simp [field, place, show lo + i < a by omega]

/-- A field read where it was placed. -/
theorem field_place_same {n : Nat} (v : BitVec n) (a : Nat) (h : a + n ≤ 16) : field (place v a) a n = v := by
  apply BitVec.eq_of_getLsbD_eq
  intro i hi
  simp [field, place, hi, show a + i < 16 by omega]

theorem getLsbD_place {n : Nat} (v : BitVec n) (a i : Nat) (h : i < 16) :
    (place v a).getLsbD i = (decide (a ≤ i) && v.getLsbD (i - a)) := by
  simp only [place, BitVec.getLsbD_shiftLeft, BitVec.getLsbD_setWidth, h, decide_true, Bool.true_and]
  by_cases ha : i < a
  · simp [ha]
  · simp [ha, show a ≤ i by omega, show i - a < 16 by omega]

end Sys2Proof
end

