-- ==== Sys2Proof/Laws/Memory.lean ====
section
/-! SUPPORT. Memory: a read after a write, and the canonical form, which every operation keeps (20_memory.md R43, R47). -/

namespace Sys2Proof.Machine

/-! ### Reads -/

theorem Memory.read_insert (m : Memory) (a b : Nat) (v : Word) (h : ∀ c ∈ m, c.1 ≠ a) :
    Memory.read (Memory.insert a v m) b = if b = a then v else Memory.read m b := by
  induction m with
  | nil =>
    by_cases hab : a = b
    · simp [Memory.insert, Memory.read, hab]
    · simp [Memory.insert, Memory.read, hab, Ne.symm hab]
  | cons c m ih =>
    have hc : c.1 ≠ a := h c (by simp)
    have ih := ih (fun d hd => h d (by simp [hd]))
    by_cases hlt : a < c.1
    · rw [Memory.insert, if_pos hlt]
      by_cases hab : a = b
      · simp [Memory.read, hab]
      · simp [Memory.read, hab, Ne.symm hab]
    · rw [Memory.insert, if_neg hlt]
      by_cases hcb : c.1 = b
      · have hba : b ≠ a := hcb ▸ hc
        simp [Memory.read, hcb, hba]
      · simp [Memory.read, hcb, ih]

theorem Memory.read_filter_same (m : Memory) (a : Nat) :
    Memory.read (m.filter (fun c => c.1 ≠ a)) a = Memory.unlisted := by
  induction m with
  | nil => rfl
  | cons c m ih => by_cases h : c.1 = a <;> simp_all [Memory.read]

theorem Memory.read_filter_other (m : Memory) (a b : Nat) (h : b ≠ a) :
    Memory.read (m.filter (fun c => c.1 ≠ a)) b = Memory.read m b := by
  induction m with
  | nil => rfl
  | cons c m ih =>
    by_cases hc : c.1 = a
    · have hcb : c.1 ≠ b := fun e => h (e ▸ hc)
      simp_all [Memory.read]
    · simp_all [Memory.read]

/-- A cell after a write: the value written at its address, the old content everywhere else. No premise on the list. -/
theorem Memory.read_write (m : Memory) (a b : Nat) (v : Word) :
    Memory.read (Memory.write m a v) b = if b = a then v else Memory.read m b := by
  by_cases hv : v = Memory.unlisted
  · by_cases hb : b = a
    · subst hb; simpa [Memory.write, hv] using Memory.read_filter_same m b
    · simpa [Memory.write, hv, hb] using Memory.read_filter_other m a b hb
  · have hne : ∀ c ∈ m.filter (fun c => c.1 ≠ a), c.1 ≠ a := by simp
    have h := Memory.read_insert (m.filter (fun c => c.1 ≠ a)) a b v hne
    by_cases hb : b = a
    · simpa [Memory.write, hv, hb] using h
    · rw [Memory.read_filter_other m a b hb] at h
      simpa [Memory.write, hv, hb] using h

/-! ### The canonical form -/

theorem Memory.mem_insert (m : Memory) (a : Nat) (v : Word) (d : Cell) :
    d ∈ Memory.insert a v m ↔ d = (a, v) ∨ d ∈ m := by
  induction m with
  | nil => simp [Memory.insert]
  | cons c m ih =>
    by_cases h : a < c.1
    · simp [Memory.insert, h]
    · simp only [Memory.insert, h, if_false, List.mem_cons, ih]; tauto

theorem Memory.wf_filter (m : Memory) (p : Cell → Bool) (h : Memory.wf m) : Memory.wf (m.filter p) :=
  ⟨h.1.filter p, fun c hc => h.2 c (List.mem_of_mem_filter hc)⟩

theorem Memory.wf_insert (m : Memory) (a : Nat) (v : Word) (h : Memory.wf m) (hne : ∀ c ∈ m, c.1 ≠ a)
    (ha : a < 65536) (hv : v ≠ Memory.unlisted) : Memory.wf (Memory.insert a v m) := by
  refine ⟨?_, fun c hc => ?_⟩
  · obtain ⟨hp, -⟩ := h
    induction m with
    | nil => simp [Memory.insert]
    | cons c m ih =>
      rw [List.pairwise_cons] at hp
      by_cases hlt : a < c.1
      · simp only [Memory.insert, hlt, if_true, List.pairwise_cons, List.mem_cons]
        exact ⟨fun d hd => hd.elim (fun e => e ▸ hlt) (fun hd => hlt.trans (hp.1 d hd)), hp⟩
      · have hca : c.1 < a := by
          have := hne c (by simp)
          omega
        simp only [Memory.insert, hlt, if_false, List.pairwise_cons]
        refine ⟨fun d hd => ?_, ih (fun d hd => hne d (by simp [hd])) hp.2⟩
        exact ((Memory.mem_insert m a v d).mp hd).elim (fun e => e ▸ hca) (fun hd => hp.1 d hd)
  · exact ((Memory.mem_insert m a v c).mp hc).elim (fun e => e ▸ ⟨ha, hv⟩) (fun hc => h.2 c hc)

/-- A write to one of the 65536 cells keeps the canonical form. -/
theorem Memory.wf_write (m : Memory) (a : Nat) (v : Word) (h : Memory.wf m) (ha : a < 65536) :
    Memory.wf (Memory.write m a v) := by
  by_cases hv : v = Memory.unlisted
  · simpa [Memory.write, hv] using Memory.wf_filter m _ h
  · have := Memory.wf_insert _ a v (Memory.wf_filter m (fun c => c.1 ≠ a) h) (by simp) ha hv
    simpa [Memory.write, hv] using this

/-- A load read back: the words at their addresses, every other cell as before (20_memory.md R62). -/
theorem Memory.read_load (m : Memory) (a : Nat) (ws : List Word) (b : Nat) :
    Memory.read (Memory.load m a ws) b =
      if h : a ≤ b ∧ b < a + ws.length then ws[b - a]'(by omega) else Memory.read m b := by
  induction ws generalizing m a with
  | nil => rw [dif_neg (by simp only [List.length_nil]; omega)]; rfl
  | cons w ws ih =>
    rw [Memory.load, ih, Memory.read_write]
    by_cases h1 : a + 1 ≤ b ∧ b < a + 1 + ws.length
    · rw [dif_pos h1, dif_pos (by simp only [List.length_cons]; omega)]
      simp [show b - a = (b - (a + 1)) + 1 by omega]
    · rw [dif_neg h1]
      by_cases h2 : b = a
      · subst h2; simp
      · rw [if_neg h2, dif_neg (by simp only [List.length_cons]; omega)]

theorem Memory.wf_load (m : Memory) (a : Nat) (ws : List Word) (h : Memory.wf m) (ha : a + ws.length ≤ 65536) :
    Memory.wf (Memory.load m a ws) := by
  induction ws generalizing m a with
  | nil => exact h
  | cons w ws ih =>
    rw [List.length_cons] at ha
    exact ih _ _ (Memory.wf_write m a w h (by omega)) (by omega)

theorem Memory.wf_memWrite (s : State) (a v : Word) (h : Memory.wf s.mem) : Memory.wf (s.memWrite a v).mem :=
  Memory.wf_write s.mem a.toNat v h a.isLt

theorem Memory.wf_reset : Memory.wf State.reset.mem := by simp [State.reset, Memory.wf]

/-! ### Cells of the state -/

theorem State.cell_memWrite (s : State) (a b v : Word) :
    (s.memWrite a v).cell b = if b = a then v else s.cell b := by
  simp only [State.cell, State.memWrite, Memory.read_write, BitVec.toNat_inj]

@[simp] theorem State.cell_memWrite_same (s : State) (a v : Word) : (s.memWrite a v).cell a = v := by
  simp [State.cell_memWrite]

theorem State.cell_memWrite_other (s : State) (a b v : Word) (h : b ≠ a) : (s.memWrite a v).cell b = s.cell b := by
  simp [State.cell_memWrite, h]

end Sys2Proof.Machine
end

