-- ==== Sys2Proof/Laws/State.lean ====
section
/-! SUPPORT. One lemma per field per update of the state, true by rfl, so that no later proof unfolds a record update; and
the same for the two accessors `reg` and `cell` where the update leaves them alone. -/

namespace Sys2Proof.Machine


/-! ### setReg -/

@[simp] theorem State.setReg_regs (s : State) (r : Reg) (v : Word) : (s.setReg r v).regs = s.regs.set r.toNat v r.isLt := rfl
@[simp] theorem State.setReg_pc (s : State) (r : Reg) (v : Word) : (s.setReg r v).pc = s.pc := rfl
@[simp] theorem State.setReg_cond (s : State) (r : Reg) (v : Word) : (s.setReg r v).cond = s.cond := rfl
@[simp] theorem State.setReg_run (s : State) (r : Reg) (v : Word) : (s.setReg r v).run = s.run := rfl
@[simp] theorem State.setReg_mem (s : State) (r : Reg) (v : Word) : (s.setReg r v).mem = s.mem := rfl
@[simp] theorem State.setReg_input (s : State) (r : Reg) (v : Word) : (s.setReg r v).input = s.input := rfl
@[simp] theorem State.setReg_output (s : State) (r : Reg) (v : Word) : (s.setReg r v).output = s.output := rfl
@[simp] theorem State.setReg_ir (s : State) (r : Reg) (v : Word) : (s.setReg r v).ir = s.ir := rfl
@[simp] theorem State.setReg_wait (s : State) (r : Reg) (v : Word) : (s.setReg r v).wait = s.wait := rfl
@[simp] theorem State.setReg_steps (s : State) (r : Reg) (v : Word) : (s.setReg r v).steps = s.steps := rfl
@[simp] theorem State.setReg_loaded (s : State) (r : Reg) (v : Word) : (s.setReg r v).loaded = s.loaded := rfl
@[simp] theorem State.setReg_cell (s : State) (r : Reg) (v : Word) (x : Word) : (s.setReg r v).cell x = s.cell x := rfl

/-! ### link -/

@[simp] theorem State.link_regs (s : State) : (s.link).regs = s.regs.set 7 s.pc := rfl
@[simp] theorem State.link_pc (s : State) : (s.link).pc = s.pc := rfl
@[simp] theorem State.link_cond (s : State) : (s.link).cond = s.cond := rfl
@[simp] theorem State.link_run (s : State) : (s.link).run = s.run := rfl
@[simp] theorem State.link_mem (s : State) : (s.link).mem = s.mem := rfl
@[simp] theorem State.link_input (s : State) : (s.link).input = s.input := rfl
@[simp] theorem State.link_output (s : State) : (s.link).output = s.output := rfl
@[simp] theorem State.link_ir (s : State) : (s.link).ir = s.ir := rfl
@[simp] theorem State.link_wait (s : State) : (s.link).wait = s.wait := rfl
@[simp] theorem State.link_steps (s : State) : (s.link).steps = s.steps := rfl
@[simp] theorem State.link_loaded (s : State) : (s.link).loaded = s.loaded := rfl
@[simp] theorem State.link_cell (s : State) (x : Word) : (s.link).cell x = s.cell x := rfl

/-! ### setPc -/

@[simp] theorem State.setPc_regs (s : State) (t : Word) : (s.setPc t).regs = s.regs := rfl
@[simp] theorem State.setPc_pc (s : State) (t : Word) : (s.setPc t).pc = t := rfl
@[simp] theorem State.setPc_cond (s : State) (t : Word) : (s.setPc t).cond = s.cond := rfl
@[simp] theorem State.setPc_run (s : State) (t : Word) : (s.setPc t).run = s.run := rfl
@[simp] theorem State.setPc_mem (s : State) (t : Word) : (s.setPc t).mem = s.mem := rfl
@[simp] theorem State.setPc_input (s : State) (t : Word) : (s.setPc t).input = s.input := rfl
@[simp] theorem State.setPc_output (s : State) (t : Word) : (s.setPc t).output = s.output := rfl
@[simp] theorem State.setPc_ir (s : State) (t : Word) : (s.setPc t).ir = s.ir := rfl
@[simp] theorem State.setPc_wait (s : State) (t : Word) : (s.setPc t).wait = s.wait := rfl
@[simp] theorem State.setPc_steps (s : State) (t : Word) : (s.setPc t).steps = s.steps := rfl
@[simp] theorem State.setPc_loaded (s : State) (t : Word) : (s.setPc t).loaded = s.loaded := rfl
@[simp] theorem State.setPc_reg (s : State) (t : Word) (q : Reg) : (s.setPc t).reg q = s.reg q := rfl
@[simp] theorem State.setPc_cell (s : State) (t : Word) (x : Word) : (s.setPc t).cell x = s.cell x := rfl

/-! ### raise -/

@[simp] theorem State.raise_regs (s : State) (c : Cause) (w : Word) : (s.raise c w).regs = s.regs := rfl
@[simp] theorem State.raise_pc (s : State) (c : Cause) (w : Word) : (s.raise c w).pc = s.pc := rfl
@[simp] theorem State.raise_cond (s : State) (c : Cause) (w : Word) : (s.raise c w).cond = s.cond := rfl
@[simp] theorem State.raise_run (s : State) (c : Cause) (w : Word) : (s.raise c w).run = .halted c w := rfl
@[simp] theorem State.raise_mem (s : State) (c : Cause) (w : Word) : (s.raise c w).mem = s.mem := rfl
@[simp] theorem State.raise_input (s : State) (c : Cause) (w : Word) : (s.raise c w).input = s.input := rfl
@[simp] theorem State.raise_output (s : State) (c : Cause) (w : Word) : (s.raise c w).output = s.output := rfl
@[simp] theorem State.raise_ir (s : State) (c : Cause) (w : Word) : (s.raise c w).ir = s.ir := rfl
@[simp] theorem State.raise_wait (s : State) (c : Cause) (w : Word) : (s.raise c w).wait = s.wait := rfl
@[simp] theorem State.raise_steps (s : State) (c : Cause) (w : Word) : (s.raise c w).steps = s.steps := rfl
@[simp] theorem State.raise_loaded (s : State) (c : Cause) (w : Word) : (s.raise c w).loaded = s.loaded := rfl
@[simp] theorem State.raise_reg (s : State) (c : Cause) (w : Word) (q : Reg) : (s.raise c w).reg q = s.reg q := rfl
@[simp] theorem State.raise_cell (s : State) (c : Cause) (w : Word) (x : Word) : (s.raise c w).cell x = s.cell x := rfl

/-! ### memWrite -/

@[simp] theorem State.memWrite_regs (s : State) (a v : Word) : (s.memWrite a v).regs = s.regs := rfl
@[simp] theorem State.memWrite_pc (s : State) (a v : Word) : (s.memWrite a v).pc = s.pc := rfl
@[simp] theorem State.memWrite_cond (s : State) (a v : Word) : (s.memWrite a v).cond = s.cond := rfl
@[simp] theorem State.memWrite_run (s : State) (a v : Word) : (s.memWrite a v).run = s.run := rfl
@[simp] theorem State.memWrite_mem (s : State) (a v : Word) : (s.memWrite a v).mem = Memory.write s.mem a.toNat v := rfl
@[simp] theorem State.memWrite_input (s : State) (a v : Word) : (s.memWrite a v).input = s.input := rfl
@[simp] theorem State.memWrite_output (s : State) (a v : Word) : (s.memWrite a v).output = s.output := rfl
@[simp] theorem State.memWrite_ir (s : State) (a v : Word) : (s.memWrite a v).ir = s.ir := rfl
@[simp] theorem State.memWrite_wait (s : State) (a v : Word) : (s.memWrite a v).wait = s.wait := rfl
@[simp] theorem State.memWrite_steps (s : State) (a v : Word) : (s.memWrite a v).steps = s.steps := rfl
@[simp] theorem State.memWrite_loaded (s : State) (a v : Word) : (s.memWrite a v).loaded = s.loaded := rfl
@[simp] theorem State.memWrite_reg (s : State) (a v : Word) (q : Reg) : (s.memWrite a v).reg q = s.reg q := rfl

/-! ### setInput -/

@[simp] theorem State.setInput_regs (s : State) (es : List InEvent) : (s.setInput es).regs = s.regs := rfl
@[simp] theorem State.setInput_pc (s : State) (es : List InEvent) : (s.setInput es).pc = s.pc := rfl
@[simp] theorem State.setInput_cond (s : State) (es : List InEvent) : (s.setInput es).cond = s.cond := rfl
@[simp] theorem State.setInput_run (s : State) (es : List InEvent) : (s.setInput es).run = s.run := rfl
@[simp] theorem State.setInput_mem (s : State) (es : List InEvent) : (s.setInput es).mem = s.mem := rfl
@[simp] theorem State.setInput_input (s : State) (es : List InEvent) : (s.setInput es).input = es := rfl
@[simp] theorem State.setInput_output (s : State) (es : List InEvent) : (s.setInput es).output = s.output := rfl
@[simp] theorem State.setInput_ir (s : State) (es : List InEvent) : (s.setInput es).ir = s.ir := rfl
@[simp] theorem State.setInput_wait (s : State) (es : List InEvent) : (s.setInput es).wait = s.wait := rfl
@[simp] theorem State.setInput_steps (s : State) (es : List InEvent) : (s.setInput es).steps = s.steps := rfl
@[simp] theorem State.setInput_loaded (s : State) (es : List InEvent) : (s.setInput es).loaded = s.loaded := rfl
@[simp] theorem State.setInput_reg (s : State) (es : List InEvent) (q : Reg) : (s.setInput es).reg q = s.reg q := rfl
@[simp] theorem State.setInput_cell (s : State) (es : List InEvent) (x : Word) : (s.setInput es).cell x = s.cell x := rfl

/-! ### suspend -/

@[simp] theorem State.suspend_regs (s : State) (u : Unfinished) : (s.suspend u).regs = s.regs := rfl
@[simp] theorem State.suspend_pc (s : State) (u : Unfinished) : (s.suspend u).pc = s.pc := rfl
@[simp] theorem State.suspend_cond (s : State) (u : Unfinished) : (s.suspend u).cond = s.cond := rfl
@[simp] theorem State.suspend_run (s : State) (u : Unfinished) : (s.suspend u).run = s.run := rfl
@[simp] theorem State.suspend_mem (s : State) (u : Unfinished) : (s.suspend u).mem = s.mem := rfl
@[simp] theorem State.suspend_input (s : State) (u : Unfinished) : (s.suspend u).input = s.input := rfl
@[simp] theorem State.suspend_output (s : State) (u : Unfinished) : (s.suspend u).output = s.output := rfl
@[simp] theorem State.suspend_ir (s : State) (u : Unfinished) : (s.suspend u).ir = s.ir := rfl
@[simp] theorem State.suspend_wait (s : State) (u : Unfinished) : (s.suspend u).wait = some u := rfl
@[simp] theorem State.suspend_steps (s : State) (u : Unfinished) : (s.suspend u).steps = s.steps := rfl
@[simp] theorem State.suspend_loaded (s : State) (u : Unfinished) : (s.suspend u).loaded = s.loaded := rfl
@[simp] theorem State.suspend_reg (s : State) (u : Unfinished) (q : Reg) : (s.suspend u).reg q = s.reg q := rfl
@[simp] theorem State.suspend_cell (s : State) (u : Unfinished) (x : Word) : (s.suspend u).cell x = s.cell x := rfl

/-! ### takeUp -/

@[simp] theorem State.takeUp_regs (s : State) : (s.takeUp).regs = s.regs := rfl
@[simp] theorem State.takeUp_pc (s : State) : (s.takeUp).pc = s.pc := rfl
@[simp] theorem State.takeUp_cond (s : State) : (s.takeUp).cond = s.cond := rfl
@[simp] theorem State.takeUp_run (s : State) : (s.takeUp).run = s.run := rfl
@[simp] theorem State.takeUp_mem (s : State) : (s.takeUp).mem = s.mem := rfl
@[simp] theorem State.takeUp_input (s : State) : (s.takeUp).input = s.input := rfl
@[simp] theorem State.takeUp_output (s : State) : (s.takeUp).output = s.output := rfl
@[simp] theorem State.takeUp_ir (s : State) : (s.takeUp).ir = s.ir := rfl
@[simp] theorem State.takeUp_wait (s : State) : (s.takeUp).wait = none := rfl
@[simp] theorem State.takeUp_steps (s : State) : (s.takeUp).steps = s.steps := rfl
@[simp] theorem State.takeUp_loaded (s : State) : (s.takeUp).loaded = s.loaded := rfl
@[simp] theorem State.takeUp_reg (s : State) (q : Reg) : (s.takeUp).reg q = s.reg q := rfl
@[simp] theorem State.takeUp_cell (s : State) (x : Word) : (s.takeUp).cell x = s.cell x := rfl

/-! ### emit -/

@[simp] theorem State.emit_regs (s : State) (es : List OutEvent) : (s.emit es).regs = s.regs := rfl
@[simp] theorem State.emit_pc (s : State) (es : List OutEvent) : (s.emit es).pc = s.pc := rfl
@[simp] theorem State.emit_cond (s : State) (es : List OutEvent) : (s.emit es).cond = s.cond := rfl
@[simp] theorem State.emit_run (s : State) (es : List OutEvent) : (s.emit es).run = s.run := rfl
@[simp] theorem State.emit_mem (s : State) (es : List OutEvent) : (s.emit es).mem = s.mem := rfl
@[simp] theorem State.emit_input (s : State) (es : List OutEvent) : (s.emit es).input = s.input := rfl
@[simp] theorem State.emit_output (s : State) (es : List OutEvent) : (s.emit es).output = s.output ++ es := rfl
@[simp] theorem State.emit_ir (s : State) (es : List OutEvent) : (s.emit es).ir = s.ir := rfl
@[simp] theorem State.emit_wait (s : State) (es : List OutEvent) : (s.emit es).wait = s.wait := rfl
@[simp] theorem State.emit_steps (s : State) (es : List OutEvent) : (s.emit es).steps = s.steps := rfl
@[simp] theorem State.emit_loaded (s : State) (es : List OutEvent) : (s.emit es).loaded = s.loaded := rfl
@[simp] theorem State.emit_reg (s : State) (es : List OutEvent) (q : Reg) : (s.emit es).reg q = s.reg q := rfl
@[simp] theorem State.emit_cell (s : State) (es : List OutEvent) (x : Word) : (s.emit es).cell x = s.cell x := rfl

/-! ### outByte -/

@[simp] theorem State.outByte_regs (s : State) (b : Byte) : (s.outByte b).regs = s.regs := rfl
@[simp] theorem State.outByte_pc (s : State) (b : Byte) : (s.outByte b).pc = s.pc := rfl
@[simp] theorem State.outByte_cond (s : State) (b : Byte) : (s.outByte b).cond = s.cond := rfl
@[simp] theorem State.outByte_run (s : State) (b : Byte) : (s.outByte b).run = s.run := rfl
@[simp] theorem State.outByte_mem (s : State) (b : Byte) : (s.outByte b).mem = s.mem := rfl
@[simp] theorem State.outByte_input (s : State) (b : Byte) : (s.outByte b).input = s.input := rfl
@[simp] theorem State.outByte_output (s : State) (b : Byte) : (s.outByte b).output = s.output ++ [.byte b] := rfl
@[simp] theorem State.outByte_ir (s : State) (b : Byte) : (s.outByte b).ir = s.ir := rfl
@[simp] theorem State.outByte_wait (s : State) (b : Byte) : (s.outByte b).wait = s.wait := rfl
@[simp] theorem State.outByte_steps (s : State) (b : Byte) : (s.outByte b).steps = s.steps := rfl
@[simp] theorem State.outByte_loaded (s : State) (b : Byte) : (s.outByte b).loaded = s.loaded := rfl
@[simp] theorem State.outByte_reg (s : State) (b : Byte) (q : Reg) : (s.outByte b).reg q = s.reg q := rfl
@[simp] theorem State.outByte_cell (s : State) (b : Byte) (x : Word) : (s.outByte b).cell x = s.cell x := rfl

/-! ### outBytes -/

@[simp] theorem State.outBytes_regs (s : State) (bs : List Byte) : (s.outBytes bs).regs = s.regs := rfl
@[simp] theorem State.outBytes_pc (s : State) (bs : List Byte) : (s.outBytes bs).pc = s.pc := rfl
@[simp] theorem State.outBytes_cond (s : State) (bs : List Byte) : (s.outBytes bs).cond = s.cond := rfl
@[simp] theorem State.outBytes_run (s : State) (bs : List Byte) : (s.outBytes bs).run = s.run := rfl
@[simp] theorem State.outBytes_mem (s : State) (bs : List Byte) : (s.outBytes bs).mem = s.mem := rfl
@[simp] theorem State.outBytes_input (s : State) (bs : List Byte) : (s.outBytes bs).input = s.input := rfl
@[simp] theorem State.outBytes_output (s : State) (bs : List Byte) : (s.outBytes bs).output = s.output ++ bs.map .byte := rfl
@[simp] theorem State.outBytes_ir (s : State) (bs : List Byte) : (s.outBytes bs).ir = s.ir := rfl
@[simp] theorem State.outBytes_wait (s : State) (bs : List Byte) : (s.outBytes bs).wait = s.wait := rfl
@[simp] theorem State.outBytes_steps (s : State) (bs : List Byte) : (s.outBytes bs).steps = s.steps := rfl
@[simp] theorem State.outBytes_loaded (s : State) (bs : List Byte) : (s.outBytes bs).loaded = s.loaded := rfl
@[simp] theorem State.outBytes_reg (s : State) (bs : List Byte) (q : Reg) : (s.outBytes bs).reg q = s.reg q := rfl
@[simp] theorem State.outBytes_cell (s : State) (bs : List Byte) (x : Word) : (s.outBytes bs).cell x = s.cell x := rfl

/-! ### outFlush -/

@[simp] theorem State.outFlush_regs (s : State) : (s.outFlush).regs = s.regs := rfl
@[simp] theorem State.outFlush_pc (s : State) : (s.outFlush).pc = s.pc := rfl
@[simp] theorem State.outFlush_cond (s : State) : (s.outFlush).cond = s.cond := rfl
@[simp] theorem State.outFlush_run (s : State) : (s.outFlush).run = s.run := rfl
@[simp] theorem State.outFlush_mem (s : State) : (s.outFlush).mem = s.mem := rfl
@[simp] theorem State.outFlush_input (s : State) : (s.outFlush).input = s.input := rfl
@[simp] theorem State.outFlush_output (s : State) : (s.outFlush).output = s.output ++ [.flush] := rfl
@[simp] theorem State.outFlush_ir (s : State) : (s.outFlush).ir = s.ir := rfl
@[simp] theorem State.outFlush_wait (s : State) : (s.outFlush).wait = s.wait := rfl
@[simp] theorem State.outFlush_steps (s : State) : (s.outFlush).steps = s.steps := rfl
@[simp] theorem State.outFlush_loaded (s : State) : (s.outFlush).loaded = s.loaded := rfl
@[simp] theorem State.outFlush_reg (s : State) (q : Reg) : (s.outFlush).reg q = s.reg q := rfl
@[simp] theorem State.outFlush_cell (s : State) (x : Word) : (s.outFlush).cell x = s.cell x := rfl

/-! ### beginStep -/

@[simp] theorem State.beginStep_regs (s : State) : (s.beginStep).regs = s.regs := rfl
@[simp] theorem State.beginStep_pc (s : State) : (s.beginStep).pc = s.pc := rfl
@[simp] theorem State.beginStep_cond (s : State) : (s.beginStep).cond = s.cond := rfl
@[simp] theorem State.beginStep_run (s : State) : (s.beginStep).run = s.run := rfl
@[simp] theorem State.beginStep_mem (s : State) : (s.beginStep).mem = s.mem := rfl
@[simp] theorem State.beginStep_input (s : State) : (s.beginStep).input = s.input := rfl
@[simp] theorem State.beginStep_output (s : State) : (s.beginStep).output = s.output := rfl
@[simp] theorem State.beginStep_ir (s : State) : (s.beginStep).ir = s.ir := rfl
@[simp] theorem State.beginStep_wait (s : State) : (s.beginStep).wait = s.wait := rfl
@[simp] theorem State.beginStep_steps (s : State) : (s.beginStep).steps = s.steps + 1 := rfl
@[simp] theorem State.beginStep_loaded (s : State) : (s.beginStep).loaded = s.loaded := rfl
@[simp] theorem State.beginStep_reg (s : State) (q : Reg) : (s.beginStep).reg q = s.reg q := rfl
@[simp] theorem State.beginStep_cell (s : State) (x : Word) : (s.beginStep).cell x = s.cell x := rfl

/-! ### setIr -/

@[simp] theorem State.setIr_regs (s : State) (w : Word) : (s.setIr w).regs = s.regs := rfl
@[simp] theorem State.setIr_pc (s : State) (w : Word) : (s.setIr w).pc = s.pc := rfl
@[simp] theorem State.setIr_cond (s : State) (w : Word) : (s.setIr w).cond = s.cond := rfl
@[simp] theorem State.setIr_run (s : State) (w : Word) : (s.setIr w).run = s.run := rfl
@[simp] theorem State.setIr_mem (s : State) (w : Word) : (s.setIr w).mem = s.mem := rfl
@[simp] theorem State.setIr_input (s : State) (w : Word) : (s.setIr w).input = s.input := rfl
@[simp] theorem State.setIr_output (s : State) (w : Word) : (s.setIr w).output = s.output := rfl
@[simp] theorem State.setIr_ir (s : State) (w : Word) : (s.setIr w).ir = w := rfl
@[simp] theorem State.setIr_wait (s : State) (w : Word) : (s.setIr w).wait = s.wait := rfl
@[simp] theorem State.setIr_steps (s : State) (w : Word) : (s.setIr w).steps = s.steps := rfl
@[simp] theorem State.setIr_loaded (s : State) (w : Word) : (s.setIr w).loaded = s.loaded := rfl
@[simp] theorem State.setIr_reg (s : State) (w : Word) (q : Reg) : (s.setIr w).reg q = s.reg q := rfl
@[simp] theorem State.setIr_cell (s : State) (w : Word) (x : Word) : (s.setIr w).cell x = s.cell x := rfl

/-! ### setcc -/

@[simp] theorem State.setcc_regs (s : State) (v : Word) : (s.setcc v).regs = s.regs := rfl
@[simp] theorem State.setcc_pc (s : State) (v : Word) : (s.setcc v).pc = s.pc := rfl
@[simp] theorem State.setcc_cond (s : State) (v : Word) : (s.setcc v).cond = condOf v := rfl
@[simp] theorem State.setcc_run (s : State) (v : Word) : (s.setcc v).run = s.run := rfl
@[simp] theorem State.setcc_mem (s : State) (v : Word) : (s.setcc v).mem = s.mem := rfl
@[simp] theorem State.setcc_input (s : State) (v : Word) : (s.setcc v).input = s.input := rfl
@[simp] theorem State.setcc_output (s : State) (v : Word) : (s.setcc v).output = s.output := rfl
@[simp] theorem State.setcc_ir (s : State) (v : Word) : (s.setcc v).ir = s.ir := rfl
@[simp] theorem State.setcc_wait (s : State) (v : Word) : (s.setcc v).wait = s.wait := rfl
@[simp] theorem State.setcc_steps (s : State) (v : Word) : (s.setcc v).steps = s.steps := rfl
@[simp] theorem State.setcc_loaded (s : State) (v : Word) : (s.setcc v).loaded = s.loaded := rfl
@[simp] theorem State.setcc_reg (s : State) (v : Word) (q : Reg) : (s.setcc v).reg q = s.reg q := rfl
@[simp] theorem State.setcc_cell (s : State) (v : Word) (x : Word) : (s.setcc v).cell x = s.cell x := rfl

/-! ### writeDr -/

@[simp] theorem State.writeDr_regs (s : State) (r : Reg) (v : Word) : (s.writeDr r v).regs = s.regs.set r.toNat v r.isLt := rfl
@[simp] theorem State.writeDr_pc (s : State) (r : Reg) (v : Word) : (s.writeDr r v).pc = s.pc := rfl
@[simp] theorem State.writeDr_cond (s : State) (r : Reg) (v : Word) : (s.writeDr r v).cond = condOf v := rfl
@[simp] theorem State.writeDr_run (s : State) (r : Reg) (v : Word) : (s.writeDr r v).run = s.run := rfl
@[simp] theorem State.writeDr_mem (s : State) (r : Reg) (v : Word) : (s.writeDr r v).mem = s.mem := rfl
@[simp] theorem State.writeDr_input (s : State) (r : Reg) (v : Word) : (s.writeDr r v).input = s.input := rfl
@[simp] theorem State.writeDr_output (s : State) (r : Reg) (v : Word) : (s.writeDr r v).output = s.output := rfl
@[simp] theorem State.writeDr_ir (s : State) (r : Reg) (v : Word) : (s.writeDr r v).ir = s.ir := rfl
@[simp] theorem State.writeDr_wait (s : State) (r : Reg) (v : Word) : (s.writeDr r v).wait = s.wait := rfl
@[simp] theorem State.writeDr_steps (s : State) (r : Reg) (v : Word) : (s.writeDr r v).steps = s.steps := rfl
@[simp] theorem State.writeDr_loaded (s : State) (r : Reg) (v : Word) : (s.writeDr r v).loaded = s.loaded := rfl
@[simp] theorem State.writeDr_cell (s : State) (r : Reg) (v : Word) (x : Word) : (s.writeDr r v).cell x = s.cell x := rfl

/-! ### The register file (10_state.md R13) -/

theorem State.reg_setReg (s : State) (r q : Reg) (v : Word) :
    (s.setReg r v).reg q = if q = r then v else s.reg q := by
  simp only [State.reg, State.setReg, Vector.getElem_set, BitVec.toNat_inj, eq_comm]

@[simp] theorem State.reg_setReg_same (s : State) (r : Reg) (v : Word) : (s.setReg r v).reg r = v := by
  simp [State.reg_setReg]

theorem State.reg_setReg_other (s : State) (r q : Reg) (v : Word) (h : q ≠ r) : (s.setReg r v).reg q = s.reg q := by
  simp [State.reg_setReg, h]

theorem State.reg_link (s : State) (q : Reg) : s.link.reg q = if q = 7#3 then s.pc else s.reg q :=
  State.reg_setReg s 7#3 q s.pc

theorem State.reg_writeDr (s : State) (r q : Reg) (v : Word) :
    (s.writeDr r v).reg q = if q = r then v else s.reg q :=
  State.reg_setReg s r q v

end Sys2Proof.Machine
end

