-- ==== Sys2Proof/Laws/Ops.lean ====
section
/-! SUPPORT. What each shared operation can do, said once: the poll and the memory read, the two input requests, the string
scans, the fetch. -/

namespace Sys2Proof.Machine

theorem kbsr_ne_kbdr : config.kbsrAddr ≠ config.kbdrAddr := by decide

/-! ### The input channel -/

/-- A poll leaves a suffix of the channel. -/
theorem inPoll_suffix (es : List InEvent) :
    match inPoll es with
    | .byte b rest => es = .byte b :: rest
    | .none rest => rest <:+ es
    | .error => True := by
  match es with
  | [] => exact List.suffix_refl _
  | .byte b :: rest => rfl
  | .pause :: rest => exact List.suffix_cons _ _
  | .eof :: rest =>
    simp only [inPoll]
    cases config.inEofPolicy
    · trivial
    · exact List.suffix_refl _
  | .error :: rest => trivial

/-- A blocking read leaves a suffix of the channel; a byte it answers is the first byte of the channel, only pauses
before it. -/
theorem inRead_suffix (es : List InEvent) :
    match inRead es with
    | .byte b rest => ∃ k, es = List.replicate k .pause ++ .byte b :: rest
    | .waiting rest => rest <:+ es
    | .error => True := by
  induction es with
  | nil => exact List.suffix_refl _
  | cons e es ih =>
    cases e with
    | byte b => exact ⟨0, rfl⟩
    | pause =>
      simp only [inRead]
      split at ih
      · obtain ⟨k, hk⟩ := ih
        exact ⟨k + 1, by rw [hk]; rfl⟩
      · exact ih.trans (List.suffix_cons _ _)
      · trivial
    | eof =>
      simp only [inRead]
      cases config.inEofPolicy
      · trivial
      · exact List.suffix_refl _
    | error => trivial

theorem inRead_byte_suffix {es rest : List InEvent} {b : Byte} (h : inRead es = .byte b rest) : rest <:+ es := by
  have hs := inRead_suffix es
  rw [h] at hs
  obtain ⟨k, hk⟩ := hs
  exact ⟨List.replicate k .pause ++ [.byte b], by rw [hk]; simp⟩

theorem inRead_waiting_suffix {es rest : List InEvent} (h : inRead es = .waiting rest) : rest <:+ es := by
  have hs := inRead_suffix es
  rw [h] at hs
  exact hs

/-! ### The memory read -/

/-- A read of any cell but KBSR: its content, nothing changed (20_memory.md R43, R44). -/
theorem memRead_ordinary (a : Word) (s : State) (h : a ≠ config.kbsrAddr) : memRead a s = .ok (s.cell a) s := by
  simp [memRead, h]

/-- A read of KBSR, by the answer of the poll (R45). -/
theorem memRead_kbsr (s : State) :
    memRead config.kbsrAddr s =
      match inPoll s.input with
      | .byte b rest =>
        .ok 0x8000#16 (((s.setInput rest).memWrite config.kbsrAddr 0x8000#16).memWrite config.kbdrAddr (zext b))
      | .none rest => .ok 0x0000#16 ((s.setInput rest).memWrite config.kbsrAddr 0x0000#16)
      | .error => .stop (s.raise .inputError config.kbsrAddr) := by
  unfold memRead keyboardPoll
  cases inPoll s.input <;> simp [State.cell_memWrite, kbsr_ne_kbdr]

/-- What reads of memory, and the scans made of them, may change: the keyboard cells, the channels, and the run state by
InputError of a poll. -/
structure ReadFrame (s t : State) : Prop where
  regs : t.regs = s.regs
  pc : t.pc = s.pc
  cond : t.cond = s.cond
  ir : t.ir = s.ir
  steps : t.steps = s.steps
  loaded : t.loaded = s.loaded
  cell : ∀ a, a ≠ config.kbsrAddr → a ≠ config.kbdrAddr → t.cell a = s.cell a
  wf : Memory.wf s.mem → Memory.wf t.mem
  input : t.input <:+ s.input
  output : s.output <+: t.output
  run : t.run = s.run ∨ t.run = .halted .inputError config.kbsrAddr

theorem ReadFrame.reg {s t : State} (h : ReadFrame s t) (r : Reg) : t.reg r = s.reg r := by
  simp only [State.reg, h.regs]

theorem ReadFrame.refl (s : State) : ReadFrame s s :=
  ⟨rfl, rfl, rfl, rfl, rfl, rfl, fun _ _ _ => rfl, id, List.suffix_refl _, List.prefix_refl _, .inl rfl⟩

theorem ReadFrame.trans {s t u : State} (h : ReadFrame s t) (k : ReadFrame t u) : ReadFrame s u where
  regs := k.regs.trans h.regs
  pc := k.pc.trans h.pc
  cond := k.cond.trans h.cond
  ir := k.ir.trans h.ir
  steps := k.steps.trans h.steps
  loaded := k.loaded.trans h.loaded
  cell a h1 h2 := (k.cell a h1 h2).trans (h.cell a h1 h2)
  wf w := k.wf (h.wf w)
  input := k.input.trans h.input
  output := h.output.trans k.output
  run := k.run.elim (fun e => e ▸ h.run) .inr

theorem ReadFrame.emit (s : State) (es : List OutEvent) : ReadFrame s (s.emit es) :=
  { ReadFrame.refl s with output := List.prefix_append _ _ }

theorem ReadFrame.suspend (s : State) (u : Unfinished) : ReadFrame s (s.suspend u) :=
  { ReadFrame.refl s with }

/-- A memory read that completes: its frame, RUNNING as before, nothing sent, no unfinished step begun. -/
theorem memRead_ok {a : Word} {s t : State} {v : Word} (h : memRead a s = .ok v t) :
    ReadFrame s t ∧ t.run = s.run ∧ t.output = s.output ∧ t.wait = s.wait ∧ v = t.cell a := by
  by_cases ha : a = config.kbsrAddr
  · subst ha
    rw [memRead_kbsr] at h
    have hs := inPoll_suffix s.input
    cases hp : inPoll s.input <;> simp only [hp, Access.ok.injEq, reduceCtorEq] at h hs
    · obtain ⟨rfl, rfl⟩ := h
      refine ⟨{ ReadFrame.refl s with
        cell := fun b h1 h2 => ?_, wf := fun w => ?_, input := ?_ }, rfl, rfl, rfl, ?_⟩
      · simp [State.cell_memWrite, h1, h2]
      · exact Memory.wf_memWrite _ _ _ (Memory.wf_memWrite _ _ _ w)
      · exact hs ▸ List.suffix_cons _ _
      · simp [State.cell_memWrite, kbsr_ne_kbdr]
    · obtain ⟨rfl, rfl⟩ := h
      refine ⟨{ ReadFrame.refl s with
        cell := fun b h1 _ => ?_, wf := fun w => ?_, input := hs }, rfl, rfl, rfl, ?_⟩
      · simp [State.cell_memWrite, h1]
      · exact Memory.wf_memWrite _ _ _ w
      · simp
  · rw [memRead_ordinary a s ha] at h
    cases h
    exact ⟨ReadFrame.refl s, rfl, rfl, rfl, rfl⟩

/-- A memory read that stops the machine: it was of KBSR, the poll answered `Error`, nothing but the run state changed
(20_memory.md R45, 60_exceptions.md R186). -/
theorem memRead_stop {a : Word} {s t : State} (h : memRead a s = .stop t) :
    a = config.kbsrAddr ∧ inPoll s.input = .error ∧ t = s.raise .inputError config.kbsrAddr := by
  by_cases ha : a = config.kbsrAddr
  · subst ha
    rw [memRead_kbsr] at h
    cases hp : inPoll s.input <;> simp only [hp, Access.stop.injEq, reduceCtorEq] at h
    exact ⟨rfl, rfl, h.symm⟩
  · rw [memRead_ordinary a s ha] at h; cases h

theorem ReadFrame.raise (s : State) : ReadFrame s (s.raise .inputError config.kbsrAddr) :=
  { ReadFrame.refl s with run := .inr rfl }

theorem ReadFrame.of_stop {a : Word} {s t : State} (h : memRead a s = .stop t) : ReadFrame s t :=
  (memRead_stop h).2.2 ▸ ReadFrame.raise s

/-! ### The string scans -/

/-- A PUTS scan keeps the frame of its reads; it ends, or the machine stops, or it is left unfinished. -/
theorem putsLoop_frame (k : Nat) (a : Word) (s : State) :
    ReadFrame s (putsLoop k a s) ∧
      ((putsLoop k a s).wait = s.wait ∨ (∃ b, (putsLoop k a s).wait = some (.puts b)) ∧ (putsLoop k a s).run = s.run) := by
  induction k generalizing a s with
  | zero => exact ⟨ReadFrame.suspend s _, .inr ⟨⟨a, rfl⟩, rfl⟩⟩
  | succ k ih =>
    simp only [putsLoop]
    cases hr : memRead a s with
    | stop t => exact ⟨ReadFrame.of_stop hr, .inl ((memRead_stop hr).2.2 ▸ rfl)⟩
    | ok w t =>
      obtain ⟨hf, hrun, -, hw, -⟩ := memRead_ok hr
      by_cases h0 : w = 0#16
      · simp only [Access.after, h0, if_true]
        exact ⟨hf.trans (ReadFrame.emit t _), .inl hw⟩
      · simp only [Access.after, h0, if_false]
        have h := ih (a + 1#16) (t.outByte (lowByte w))
        exact ⟨hf.trans ((ReadFrame.emit t _).trans h.1), hw ▸ hrun ▸ h.2⟩

/-- A PUTSP scan likewise. -/
theorem putspLoop_frame (k : Nat) (a : Word) (s : State) :
    ReadFrame s (putspLoop k a s) ∧
      ((putspLoop k a s).wait = s.wait ∨
        (∃ b, (putspLoop k a s).wait = some (.putsp b)) ∧ (putspLoop k a s).run = s.run) := by
  induction k generalizing a s with
  | zero => exact ⟨ReadFrame.suspend s _, .inr ⟨⟨a, rfl⟩, rfl⟩⟩
  | succ k ih =>
    simp only [putspLoop]
    cases hr : memRead a s with
    | stop t => exact ⟨ReadFrame.of_stop hr, .inl ((memRead_stop hr).2.2 ▸ rfl)⟩
    | ok w t =>
      obtain ⟨hf, hrun, -, hw, -⟩ := memRead_ok hr
      by_cases h0 : w = 0#16
      · simp only [Access.after, h0, if_true]
        exact ⟨hf.trans (ReadFrame.emit t _), .inl hw⟩
      · by_cases hh : highByte w = 0#8
        · simp only [Access.after, h0, hh, if_true, if_false]
          exact ⟨(hf.trans (ReadFrame.emit t _)).trans (ReadFrame.emit _ _), .inl hw⟩
        · simp only [Access.after, h0, hh, if_false]
          have h := ih (a + 1#16) ((t.outByte (lowByte w)).outByte (highByte w))
          exact ⟨hf.trans ((ReadFrame.emit t _).trans ((ReadFrame.emit _ _).trans h.1)), hw ▸ hrun ▸ h.2⟩

/-! ### The input services -/

/-- What putting the input byte in R0 leaves alone. -/
theorem State.putChar_frame (s : State) (b : Byte) :
    (s.putChar b).reg 0#3 = zext b ∧ (∀ r, r ≠ 0#3 → (s.putChar b).reg r = s.reg r) ∧
      (s.putChar b).cond = (if config.trapInSetsFlags then condOf (zext b) else s.cond) ∧
      (s.putChar b).pc = s.pc ∧ (s.putChar b).run = s.run ∧ (s.putChar b).mem = s.mem ∧ (s.putChar b).input = s.input ∧
      (s.putChar b).output = s.output ∧ (s.putChar b).ir = s.ir ∧ (s.putChar b).wait = s.wait ∧
      (s.putChar b).steps = s.steps ∧ (s.putChar b).loaded = s.loaded := by
  unfold State.putChar
  split <;>
    exact ⟨State.reg_setReg_same _ _ _, fun r hr => State.reg_setReg_other _ _ _ _ hr, rfl, rfl, rfl, rfl, rfl, rfl, rfl,
      rfl, rfl, rfl⟩

/-- GETC's read: a byte to R0, or it waits, or InputError with the instruction word. -/
theorem getcRead_cases (s : State) :
    (∃ b rest, inRead s.input = .byte b rest ∧ getcRead s = (s.setInput rest).putChar b) ∨
    (∃ rest, inRead s.input = .waiting rest ∧ getcRead s = (s.setInput rest).suspend .getc) ∨
    (inRead s.input = .error ∧ getcRead s = s.raise .inputError s.ir) := by
  unfold getcRead
  split <;> simp_all

/-- IN's read, with the echo. -/
theorem inCharRead_cases (s : State) :
    (∃ b rest, inRead s.input = .byte b rest ∧
      inCharRead s = (((s.setInput rest).outByte b).outFlush).putChar b) ∨
    (∃ rest, inRead s.input = .waiting rest ∧ inCharRead s = (s.setInput rest).suspend .inChar) ∨
    (inRead s.input = .error ∧ inCharRead s = s.raise .inputError s.ir) := by
  unfold inCharRead
  split <;> simp_all

/-- A step left unfinished is taken up in the state it was left in. -/
theorem State.takeUp_suspend (s : State) (u : Unfinished) (h : s.wait = none) : (s.suspend u).takeUp = s := by
  cases s
  simp_all [State.suspend, State.takeUp]

/-! ### The load port -/

/-- A load that is accepted: the port was open, the words fit, and they are the only change but for the mark that closes the
port (20_memory.md R62, R64, R65). -/
theorem State.load_ready {s t : State} {origin : Word} {words : List Word} :
    s.load origin words = .ready t ↔ s.LoadOpen ∧ origin.toNat + words.length ≤ 65536 ∧
      t = { s with mem := Memory.load s.mem origin.toNat words, loaded := true } := by
  unfold State.load
  by_cases hl : s.LoadOpen
  · by_cases hf : origin.toNat + words.length ≤ 65536
    · rw [if_pos hl, if_pos hf]
      exact ⟨fun h => ⟨hl, hf, (Launch.ready.inj h).symm⟩, fun h => congrArg Launch.ready h.2.2.symm⟩
    · rw [if_pos hl, if_neg hf]
      exact ⟨(nomatch ·), fun h => absurd h.2.1 hf⟩
  · rw [if_neg hl]
    exact ⟨(nomatch ·), fun h => absurd h.1 hl⟩

/-- A load at a closed port is refused, whatever the image (R65). -/
theorem State.load_closed {s : State} (h : ¬ s.LoadOpen) (origin : Word) (words : List Word) :
    s.load origin words = .refused .portClosed :=
  if_neg h

/-! ### The fetch -/

/-- A fetch that returns a word: PC incremented, the word kept, the step counted (40_instruction_cycle.md R101). -/
theorem fetch_ok {s t : State} {w : Word} (h : fetch s = .ok w t) :
    ∃ u, memRead s.pc s.beginStep = .ok w u ∧ t = (u.setPc (u.pc + 1#16)).setIr w := by
  unfold fetch at h
  cases hr : memRead s.pc s.beginStep with
  | ok v u => rw [hr] at h; cases h; exact ⟨u, rfl, rfl⟩
  | stop u => rw [hr] at h; cases h

/-- A fetch that fails: PC keeps the fetch address (R102). -/
theorem fetch_stop {s t : State} (h : fetch s = .stop t) : memRead s.pc s.beginStep = .stop t := by
  unfold fetch at h
  cases hr : memRead s.pc s.beginStep with
  | ok v u => rw [hr] at h; cases h
  | stop u => rw [hr] at h; cases h; rfl

/-- A fetch from any cell but KBSR always returns its word. -/
theorem fetch_ordinary (s : State) (h : s.pc ≠ config.kbsrAddr) :
    fetch s = .ok (s.cell s.pc) ((s.beginStep.setPc (s.pc + 1#16)).setIr (s.cell s.pc)) := by
  simp only [fetch, memRead_ordinary s.pc s.beginStep h]
  rfl

end Sys2Proof.Machine
end

