-- ==== Sys2Proof/Laws/Exec.lean ====
section
/-! SUPPORT. What every meaning, every resumed step and every step does to the model's own fields `ir`, `steps` and
`loaded`: an instruction writes none of them, a step counts once when it fetches. -/

namespace Sys2Proof.Machine

/-- The three fields of the model's own that no instruction writes (logs 16, 17, 29). -/
structure OwnKept (s t : State) : Prop where
  ir : t.ir = s.ir
  steps : t.steps = s.steps
  loaded : t.loaded = s.loaded

theorem OwnKept.refl (s : State) : OwnKept s s := ⟨rfl, rfl, rfl⟩

theorem OwnKept.trans {s t u : State} (h : OwnKept s t) (k : OwnKept t u) : OwnKept s u :=
  ⟨k.ir.trans h.ir, k.steps.trans h.steps, k.loaded.trans h.loaded⟩

theorem OwnKept.of_link (s : State) : OwnKept s s.link := ⟨rfl, rfl, rfl⟩

theorem OwnKept.of_takeUp (s : State) : OwnKept s s.takeUp := ⟨rfl, rfl, rfl⟩

theorem ReadFrame.own {s t : State} (h : ReadFrame s t) : OwnKept s t := ⟨h.ir, h.steps, h.loaded⟩

/-- A memory read with what follows it, when that keeps the three fields. -/
theorem OwnKept.after_memRead (a : Word) (s : State) (k : Word → State → State) (hk : ∀ v t, OwnKept t (k v t)) :
    OwnKept s ((memRead a s).after k) := by
  cases h : memRead a s with
  | ok v t => exact (memRead_ok h).1.own.trans (hk v t)
  | stop t => exact (ReadFrame.of_stop h).own

theorem OwnKept.of_putChar (s : State) (b : Byte) : OwnKept s (s.putChar b) := by
  obtain ⟨-, -, -, -, -, -, -, -, h1, -, h2, h3⟩ := State.putChar_frame s b
  exact ⟨h1, h2, h3⟩

theorem OwnKept.of_getcRead (s : State) : OwnKept s (getcRead s) := by
  rcases getcRead_cases s with ⟨b, rest, -, e⟩ | ⟨rest, -, e⟩ | ⟨-, e⟩ <;> rw [e]
  · exact (OwnKept.mk rfl rfl rfl : OwnKept s (s.setInput rest)).trans (OwnKept.of_putChar _ b)
  · exact ⟨rfl, rfl, rfl⟩
  · exact ⟨rfl, rfl, rfl⟩

theorem OwnKept.of_inCharRead (s : State) : OwnKept s (inCharRead s) := by
  rcases inCharRead_cases s with ⟨b, rest, -, e⟩ | ⟨rest, -, e⟩ | ⟨-, e⟩ <;> rw [e]
  · exact (OwnKept.mk rfl rfl rfl : OwnKept s (((s.setInput rest).outByte b).outFlush)).trans (OwnKept.of_putChar _ b)
  · exact ⟨rfl, rfl, rfl⟩
  · exact ⟨rfl, rfl, rfl⟩

/-- No instruction writes `ir`, `steps` or `loaded`. -/
theorem exec_own {i : Instr} {s t : State} (h : exec i s = .next t) : OwnKept s t := by
  cases i with
  | getc => cases h; exact (OwnKept.of_link s).trans (OwnKept.of_getcRead s.link)
  | inChar =>
    cases h
    exact (OwnKept.mk rfl rfl rfl : OwnKept s ((s.link.outBytes config.inPrompt).outFlush)).trans
      (OwnKept.of_inCharRead _)
  | puts => cases h; exact (OwnKept.of_link s).trans (putsLoop_frame scanPass (s.link.reg 0#3) s.link).1.own
  | putsp => cases h; exact (OwnKept.of_link s).trans (putspLoop_frame scanPass (s.link.reg 0#3) s.link).1.own
  | ld dr off9 => cases h; exact OwnKept.after_memRead (s.pcRel off9) s _ fun _ t => ⟨rfl, rfl, rfl⟩
  | ldr dr baseR off6 => cases h; exact OwnKept.after_memRead (s.baseOff baseR off6) s _ fun _ t => ⟨rfl, rfl, rfl⟩
  | sti sr off9 => cases h; exact OwnKept.after_memRead (s.pcRel off9) s _ fun _ t => ⟨rfl, rfl, rfl⟩
  | ldi dr off9 =>
    cases h
    exact OwnKept.after_memRead (s.pcRel off9) s _ fun ea t => OwnKept.after_memRead ea t _ fun _ u => ⟨rfl, rfl, rfl⟩
  | br n z p off9 => cases h; split <;> exact ⟨rfl, rfl, rfl⟩
  | halt => cases h; split <;> exact ⟨rfl, rfl, rfl⟩
  | _ => cases h; exact ⟨rfl, rfl, rfl⟩

/-- An unfinished step that goes on writes none of them either. -/
theorem resume_own (u : Unfinished) (s : State) : OwnKept s (resume u s) := by
  cases u with
  | getc => exact (OwnKept.of_takeUp s).trans (OwnKept.of_getcRead s.takeUp)
  | inChar => exact (OwnKept.of_takeUp s).trans (OwnKept.of_inCharRead s.takeUp)
  | puts a => exact (OwnKept.of_takeUp s).trans (putsLoop_frame scanPass a s.takeUp).1.own
  | putsp a => exact (OwnKept.of_takeUp s).trans (putspLoop_frame scanPass a s.takeUp).1.own

/-- A step counts once when it begins with a fetch, otherwise not at all; no step touches `loaded` (10_state.md R37; log
29). -/
theorem step_counts {s t : State} (h : step s = .next t) :
    t.steps = (if s.run = .running ∧ s.wait = none then s.steps + 1 else s.steps) ∧ t.loaded = s.loaded := by
  unfold step at h
  cases hrun : s.run with
  | halted c w => rw [hrun] at h; cases h; simp
  | running =>
    cases hw : s.wait with
    | some u =>
      simp only [hrun, hw] at h
      cases h
      simp [(resume_own u s).steps, (resume_own u s).loaded]
    | none =>
      simp only [hrun, hw] at h
      cases hf : fetch s with
      | stop u =>
        rw [hf] at h; cases h
        simp [(memRead_stop (fetch_stop hf)).2.2]
      | ok w y =>
        rw [hf] at h
        obtain ⟨x, hx, rfl⟩ := fetch_ok hf
        have hr := (memRead_ok hx).1
        simp [(exec_own h).steps, (exec_own h).loaded, hr.steps, hr.loaded]

end Sys2Proof.Machine
end

