-- ==== Sys2Proof/Laws/PerInstr.lean ====
section
/-! SUPPORT. Statements about every instruction, one lemma per constructor (LAWS.json). Family `OpcodeField`: the word of
an instruction carries its tag's number in bits 15:12, so stage one of decoding reads the tag back (30_encoding.md R71). -/

namespace Sys2Proof.Laws.OpcodeField

open Sys2Proof

/-- Bits 15:12 of the word of `i` are the opcode of its tag. -/
def Statement (i : Instr) : Prop := field (encode i) 12 4 = config.opCode i.tag

theorem encOp_field (t : Tag) : field (encOp t) 12 4 = config.opCode t :=
  field_place_same _ 12 (by decide)

theorem addReg (dr sr1 sr2 : Reg) : Statement (.addReg dr sr1 sr2) := by
  simp [Statement, encode, encRRR, encOp_field, Instr.tag, field_or, field_place_low]

theorem addImm (dr sr1 : Reg) (imm5 : BitVec 5) : Statement (.addImm dr sr1 imm5) := by
  simp [Statement, encode, encRRI, encOp_field, Instr.tag, field_or, field_place_low]

theorem andReg (dr sr1 sr2 : Reg) : Statement (.andReg dr sr1 sr2) := by
  simp [Statement, encode, encRRR, encOp_field, Instr.tag, field_or, field_place_low]

theorem andImm (dr sr1 : Reg) (imm5 : BitVec 5) : Statement (.andImm dr sr1 imm5) := by
  simp [Statement, encode, encRRI, encOp_field, Instr.tag, field_or, field_place_low]

theorem not (dr sr : Reg) : Statement (.not dr sr) := by
  simp [Statement, encode, encOp_field, Instr.tag, field_or, field_place_low]

theorem br (n z p : Bool) (off9 : BitVec 9) : Statement (.br n z p off9) := by
  simp [Statement, encode, encOp_field, Instr.tag, field_or, field_place_low]

theorem jmp (baseR : Reg) : Statement (.jmp baseR) := by
  simp [Statement, encode, encOp_field, Instr.tag, field_or, field_place_low]

theorem ret : Statement .ret := by
  simp [Statement, encode, encOp_field, Instr.tag, field_or, field_place_low]

theorem jsr (off11 : BitVec 11) : Statement (.jsr off11) := by
  simp [Statement, encode, encOp_field, Instr.tag, field_or, field_place_low]

theorem jsrr (baseR : Reg) : Statement (.jsrr baseR) := by
  simp [Statement, encode, encOp_field, Instr.tag, field_or, field_place_low]

theorem ld (dr : Reg) (off9 : BitVec 9) : Statement (.ld dr off9) := by
  simp [Statement, encode, encRO9, encOp_field, Instr.tag, field_or, field_place_low]

theorem ldi (dr : Reg) (off9 : BitVec 9) : Statement (.ldi dr off9) := by
  simp [Statement, encode, encRO9, encOp_field, Instr.tag, field_or, field_place_low]

theorem ldr (dr baseR : Reg) (off6 : BitVec 6) : Statement (.ldr dr baseR off6) := by
  simp [Statement, encode, encRBO6, encOp_field, Instr.tag, field_or, field_place_low]

theorem lea (dr : Reg) (off9 : BitVec 9) : Statement (.lea dr off9) := by
  simp [Statement, encode, encRO9, encOp_field, Instr.tag, field_or, field_place_low]

theorem st (sr : Reg) (off9 : BitVec 9) : Statement (.st sr off9) := by
  simp [Statement, encode, encRO9, encOp_field, Instr.tag, field_or, field_place_low]

theorem sti (sr : Reg) (off9 : BitVec 9) : Statement (.sti sr off9) := by
  simp [Statement, encode, encRO9, encOp_field, Instr.tag, field_or, field_place_low]

theorem str (sr baseR : Reg) (off6 : BitVec 6) : Statement (.str sr baseR off6) := by
  simp [Statement, encode, encRBO6, encOp_field, Instr.tag, field_or, field_place_low]

theorem getc : Statement .getc := by
  simp [Statement, encode, encTrap, encOp_field, Instr.tag, field_or, field_place_low]

theorem out : Statement .out := by
  simp [Statement, encode, encTrap, encOp_field, Instr.tag, field_or, field_place_low]

theorem puts : Statement .puts := by
  simp [Statement, encode, encTrap, encOp_field, Instr.tag, field_or, field_place_low]

theorem inChar : Statement .inChar := by
  simp [Statement, encode, encTrap, encOp_field, Instr.tag, field_or, field_place_low]

theorem putsp : Statement .putsp := by
  simp [Statement, encode, encTrap, encOp_field, Instr.tag, field_or, field_place_low]

theorem halt : Statement .halt := by
  simp [Statement, encode, encTrap, encOp_field, Instr.tag, field_or, field_place_low]

theorem trap (vect8 : BitVec 8) : Statement (.trap vect8) := by
  simp [Statement, encode, encTrap, encOp_field, Instr.tag, field_or, field_place_low]

theorem rti : Statement .rti := by
  simp [Statement, encode, encOp_field, Instr.tag]

theorem res : Statement .res := by
  simp [Statement, encode, encOp_field, Instr.tag]

end Sys2Proof.Laws.OpcodeField
end

