-- ==== Sys2Proof/Tests/Slice0.lean ====
section
/-! SUPPORT. The model's own tests: ill-formed terms refused, words written out from 30_encoding.md decoded, one step of
each instruction against the vectors of 95_test_vectors.md (named in each comment), the loader vectors, and a witness for
the hypotheses of every statement. The expected values are the spec's. -/

namespace Sys2Proof.Tests

open Sys2Proof Sys2Proof.Machine Sys2Proof.Claims

/-- The outcome is a next state with the property. -/
def nextWith (o : Out) (p : State → Bool) : Bool :=
  match o with
  | .next t => p t
  | .fault _ => false
  | .refused _ => false

/-- One step from `s` with the word `w` at its PC. -/
def stepOn (w : Word) (s : State) : Out := step (s.memWrite s.pc w)

/-! ### Ill-formed terms -/

theorem test_wf_refuses_jmp_with_ret_register : Instr.wf (.jmp 7) = false := by decide
theorem test_wf_refuses_trap_with_first_service : Instr.wf (.trap 0x20) = false := by decide
theorem test_wf_refuses_trap_with_last_service : Instr.wf (.trap 0x25) = false := by decide
theorem test_wf_accepts_trap_beside_the_services : Instr.wf (.trap 0x1F) = true ∧ Instr.wf (.trap 0x26) = true := by decide

/-! ### Decoding of words written out from the formats -/

/-- R74. -/
theorem test_decode_addReg : decode 0b0001_010_011_0_00_100#16 = .addReg 2 3 4 := by decide
/-- R74, R86, VA7. -/
theorem test_decode_addReg_ignored : decode 0b0001_010_011_0_11_100#16 = .addReg 2 3 4 := by decide
/-- R75. -/
theorem test_decode_addImm : decode 0b0001_001_001_1_11111#16 = .addImm 1 1 0b11111 := by decide
/-- R74. -/
theorem test_decode_andReg : decode 0b0101_011_001_0_00_010#16 = .andReg 3 1 2 := by decide
/-- R75. -/
theorem test_decode_andImm : decode 0b0101_101_001_1_01010#16 = .andImm 5 1 0b01010 := by decide
/-- R76. -/
theorem test_decode_not : decode 0b1001_100_101_111111#16 = .not 4 5 := by decide
/-- R77. -/
theorem test_decode_br : decode 0b0000_0_0_1_111111011#16 = .br false false true 0b111111011 := by decide
/-- R77. -/
theorem test_decode_br_n : decode 0b0000_1_0_0_000000011#16 = .br true false false 3 := by decide
/-- R77. -/
theorem test_decode_br_z : decode 0b0000_0_1_0_000000011#16 = .br false true false 3 := by decide
/-- R78, VB7. -/
theorem test_decode_jmp : decode 0b1100_111_010_000111#16 = .jmp 2 := by decide
/-- R78, R94. -/
theorem test_decode_ret : decode 0b1100_000_111_000000#16 = .ret := by decide
/-- R79. -/
theorem test_decode_jsr : decode 0b0100_1_10000000000#16 = .jsr 0b10000000000 := by decide
/-- R80, VB16. -/
theorem test_decode_jsrr : decode 0b0100_0_11_010_111111#16 = .jsrr 2 := by decide
/-- R81. -/
theorem test_decode_ld : decode 0b0010_010_000000101#16 = .ld 2 5 := by decide
/-- R81. -/
theorem test_decode_ldi : decode 0b1010_000_000000100#16 = .ldi 0 4 := by decide
/-- R82. -/
theorem test_decode_ldr : decode 0b0110_011_001_111111#16 = .ldr 3 1 0b111111 := by decide
/-- R81. -/
theorem test_decode_lea : decode 0b1110_001_000001010#16 = .lea 1 10 := by decide
/-- R81. -/
theorem test_decode_st : decode 0b0011_111_000000000#16 = .st 7 0 := by decide
/-- R81. -/
theorem test_decode_sti : decode 0b1011_000_000000011#16 = .sti 0 3 := by decide
/-- R82. -/
theorem test_decode_str : decode 0b0111_100_110_000010#16 = .str 4 6 2 := by decide
/-- R83, R88. -/
theorem test_decode_getc : decode 0b1111_0000_00100000#16 = .getc := by decide
/-- R83, R88, VT8. -/
theorem test_decode_out : decode 0b1111_1010_00100001#16 = .out := by decide
/-- R83, R88. -/
theorem test_decode_puts : decode 0b1111_0000_00100010#16 = .puts := by decide
/-- R83, R88. -/
theorem test_decode_inChar : decode 0b1111_0000_00100011#16 = .inChar := by decide
/-- R83, R88. -/
theorem test_decode_putsp : decode 0b1111_0000_00100100#16 = .putsp := by decide
/-- R83, R88, VT20. -/
theorem test_decode_halt : decode 0b1111_1111_00100101#16 = .halt := by decide
/-- R83, R88, VT23. -/
theorem test_decode_trap : decode 0b1111_0000_00100110#16 = .trap 0b00100110 := by decide
/-- R87, VD2. -/
theorem test_decode_rti : decode 0b1000_111111111111#16 = .rti := by decide
/-- R87, VD4. -/
theorem test_decode_res : decode 0b1101_101010111100#16 = .res := by decide

/-- The host's probe refuses a pattern longer than the one length (R70). -/
theorem test_decodeTableWord : decodeTableWord 16 0x14C4 = some (.addReg 2 3 4) ∧ decodeTableWord 17 0 = none := by decide

/-! ### One step of each instruction -/

/-- VA6. -/
theorem test_addReg_carry_is_lost :
    nextWith (stepOn 0x14C4 ((State.reset.setReg 3 0x8000).setReg 4 0x8000))
      (fun t => t.reg 2 = 0 ∧ t.cond = .zero ∧ t.pc = 0x3001) = true := by decide
/-- R121, P1. -/
theorem test_addReg_doubles_itself :
    nextWith (stepOn 0x1000 (State.reset.setReg 0 1))
      (fun t => t.reg 0 = 2 ∧ t.cond = .positive) = true := by decide
/-- VA3. -/
theorem test_addImm_signed_overflow_is_silent :
    nextWith (stepOn 0x1261 (State.reset.setReg 1 0x7FFF))
      (fun t => t.reg 1 = 0x8000 ∧ t.cond = .negative) = true := by decide
/-- VA4. -/
theorem test_addImm_most_negative :
    nextWith (stepOn 0x1270 (State.reset.setReg 1 0x0010))
      (fun t => t.reg 1 = 0 ∧ t.cond = .zero) = true := by decide
/-- VA11. -/
theorem test_andReg :
    nextWith (stepOn 0x5642 ((State.reset.setReg 1 0xF0F0).setReg 2 0x0FF0))
      (fun t => t.reg 3 = 0x00F0 ∧ t.cond = .positive) = true := by decide
/-- VA15. -/
theorem test_andImm_is_sign_extended :
    nextWith (stepOn 0x5270 (State.reset.setReg 1 0x8011))
      (fun t => t.reg 1 = 0x8010 ∧ t.cond = .negative) = true := by decide
/-- VA16. -/
theorem test_not :
    nextWith (stepOn 0x997F (State.reset.setReg 5 0x00FF))
      (fun t => t.reg 4 = 0xFF00 ∧ t.cond = .negative ∧ t.reg 5 = 0x00FF) = true := by decide
/-- VB2. -/
theorem test_br_no_bits_is_taken :
    nextWith (stepOn 0x0100 (State.reset.setcc 1))
      (fun t => t.pc = 0x2F01 ∧ t.cond = .positive) = true := by decide
/-- R131 table. -/
theorem test_br_z_not_taken_on_positive :
    nextWith (stepOn 0x0403 (State.reset.setcc 1))
      (fun t => t.pc = 0x3001) = true := by decide
/-- VB4. -/
theorem test_br_wraps_below_zero :
    nextWith (stepOn 0x05FE (State.reset.setPc 0))
      (fun t => t.pc = 0xFFFF) = true := by decide
/-- VB6. -/
theorem test_jmp :
    nextWith (stepOn 0xC080 (State.reset.setReg 2 0x4000))
      (fun t => t.pc = 0x4000 ∧ t.reg 7 = 0) = true := by decide
/-- VB8. -/
theorem test_ret :
    nextWith (stepOn 0xC1C0 (State.reset.setReg 7 0x3005))
      (fun t => t.pc = 0x3005) = true := by decide
/-- VB11. -/
theorem test_jsr_most_negative :
    nextWith (stepOn 0x4C00 State.reset)
      (fun t => t.reg 7 = 0x3001 ∧ t.pc = 0x2C01 ∧ t.cond = .zero) = true := by decide
/-- VB14. -/
theorem test_jsrr :
    nextWith (stepOn 0x4080 (State.reset.setReg 2 0x5000))
      (fun t => t.reg 7 = 0x3001 ∧ t.pc = 0x5000) = true := by decide
/-- VB15. -/
theorem test_jsrr_r7_links_first :
    nextWith (stepOn 0x41C0 (State.reset.setReg 7 0x5000))
      (fun t => t.reg 7 = 0x3001 ∧ t.pc = 0x3001) = true := by decide
/-- VL1. -/
theorem test_ld :
    nextWith (stepOn 0x2405 (State.reset.memWrite 0x3006 0x8001))
      (fun t => t.reg 2 = 0x8001 ∧ t.cond = .negative) = true := by decide
/-- VL5. -/
theorem test_ld_address_wraps :
    nextWith (stepOn 0x2001 ((State.reset.setPc 0xFFFF).memWrite 1 0x1234))
      (fun t => t.reg 0 = 0x1234 ∧ t.pc = 0) = true := by decide
/-- VK1. -/
theorem test_ldi_polls_through_the_pointer :
    nextWith (stepOn 0xA001 ((State.reset.memWrite 0x3002 0xFE00).setInput [.byte 0x41]))
      (fun t => t.reg 0 = 0x8000 ∧ t.cond = .negative ∧ t.cell 0xFE02 = 0x41 ∧ t.input = []) = true := by decide
/-- VK3. -/
theorem test_ldi_ready_is_not_latched :
    nextWith (stepOn 0xA001 (((State.reset.memWrite 0x3002 0xFE00).memWrite 0xFE00 0x8000).memWrite 0xFE02 0x41))
      (fun t => t.reg 0 = 0 ∧ t.cell 0xFE00 = 0 ∧ t.cell 0xFE02 = 0x41) = true := by decide
/-- VL10. -/
theorem test_ldr_wraps_below_zero :
    nextWith (stepOn 0x6660 ((State.reset.setReg 1 0x0010).memWrite 0xFFF0 0x42))
      (fun t => t.reg 3 = 0x42 ∧ t.cond = .positive) = true := by decide
/-- VL12. -/
theorem test_ldr_base_is_read_first :
    nextWith (stepOn 0x6240 ((State.reset.setReg 1 0x4000).memWrite 0x4000 9))
      (fun t => t.reg 1 = 9) = true := by decide
/-- VL17. -/
theorem test_lea_sets_cond :
    nextWith (stepOn 0xE600 (State.reset.setPc 0x7FFF))
      (fun t => t.reg 3 = 0x8000 ∧ t.cond = .negative) = true := by decide
/-- VL18. -/
theorem test_st :
    nextWith (stepOn 0x3005 (State.reset.setReg 0 0xABCD))
      (fun t => t.cell 0x3006 = 0xABCD ∧ t.cond = .zero ∧ t.reg 0 = 0xABCD) = true := by decide
/-- VL22. -/
theorem test_sti_overwrites_its_pointer :
    nextWith (stepOn 0xB003 ((State.reset.setReg 0 0x77).memWrite 0x3004 0x3004))
      (fun t => t.cell 0x3004 = 0x77) = true := by decide
/-- VL24. -/
theorem test_str_wraps :
    nextWith (stepOn 0x79A0 (State.reset.setReg 4 0xAA))
      (fun t => t.cell 0xFFE0 = 0xAA) = true := by decide
/-- VL26. -/
theorem test_str_to_kbsr_does_not_poll :
    nextWith (stepOn 0x7040 (((State.reset.setReg 0 0xFFFF).setReg 1 0xFE00).setInput [.byte 0x41]))
      (fun t => t.cell 0xFE00 = 0xFFFF ∧ t.input = [.byte 0x41]) = true := by decide
/-- VT3. -/
theorem test_getc :
    nextWith (stepOn 0xF020 (State.reset.setInput [.pause, .byte 0xFF]))
      (fun t => t.reg 0 = 0x00FF ∧ t.reg 7 = 0x3001 ∧ t.cond = .zero ∧ t.output = []) = true := by decide
/-- VT4. -/
theorem test_getc_error :
    nextWith (stepOn 0xF020 (((State.reset.setReg 0 0x1234).setReg 7 0x9999).setInput [.error]))
      (fun t => t.run = .halted .inputError 0xF020 ∧ t.reg 7 = 0x3001 ∧ t.reg 0 = 0x1234 ∧ t.pc = 0x3001) = true := by decide
/-- VT6. -/
theorem test_out :
    nextWith (stepOn 0xF021 ((State.reset.setPc 0x3003).setReg 0 0x0121))
      (fun t => t.reg 7 = 0x3004 ∧ t.output = [.byte 0x21] ∧ t.reg 0 = 0x0121) = true := by decide
/-- VT11. -/
theorem test_puts_wraps :
    nextWith (stepOn 0xF022 (((State.reset.setReg 0 0xFFFF).memWrite 0xFFFF 0x41).memWrite 0 0x42))
      (fun t => t.output = [.byte 0x41, .byte 0x42, .flush] ∧ t.reg 7 = 0x3001) = true := by decide
/-- VT12. -/
theorem test_puts_low_byte_of_each_cell :
    nextWith (stepOn 0xF022 (((State.reset.setReg 0 0x4000).memWrite 0x4000 0x4100).memWrite 0x4001 0x0142))
      (fun t => t.output = [.byte 0, .byte 0x42, .flush]) = true := by decide
/-- VT13. -/
theorem test_in_echoes :
    nextWith (stepOn 0xF023 (State.reset.setInput [.byte 0x79]))
      (fun t => t.reg 0 = 0x79 ∧ t.reg 7 = 0x3001 ∧ t.output.length = 22 ∧ t.output.drop 19 = [.flush, .byte 0x79, .flush] ∧ t.output.head? = some (.byte 0x45)) = true := by decide
/-- VT15. -/
theorem test_putsp_stops_inside_a_cell :
    nextWith (stepOn 0xF024 ((((State.reset.setReg 0 0x4000).memWrite 0x4000 0x6548).memWrite 0x4001 0x006C).memWrite 0x4002 0x6F6C))
      (fun t => t.output = [.byte 0x48, .byte 0x65, .byte 0x6C, .flush]) = true := by decide
/-- VT17. -/
theorem test_putsp_zero_low_byte_is_sent :
    nextWith (stepOn 0xF024 ((State.reset.setReg 0 0x4000).memWrite 0x4000 0x4100))
      (fun t => t.output = [.byte 0, .byte 0x41, .flush]) = true := by decide
/-- VT20. -/
theorem test_halt_leaves_r7 :
    nextWith (stepOn 0xFF25 (State.reset.setReg 7 0x1234))
      (fun t => t.run = .halted .haltTrap 0xFF25 ∧ t.reg 7 = 0x1234 ∧ t.pc = 0x3001 ∧ t.output = [.flush]) = true := by decide
/-- VT24. -/
theorem test_trap_unknown :
    nextWith (stepOn 0xF0FF (State.reset.setReg 7 0x1234))
      (fun t => t.run = .halted .invalidTrapVector 0xF0FF ∧ t.reg 7 = 0x1234 ∧ t.pc = 0x3001 ∧ t.output = []) = true := by decide
/-- VD2. -/
theorem test_rti :
    nextWith (stepOn 0x8FFF State.reset)
      (fun t => t.run = .halted .reservedOpcode 0x8FFF ∧ t.pc = 0x3001) = true := by decide
/-- VD4. -/
theorem test_res :
    nextWith (stepOn 0xDABC State.reset)
      (fun t => t.run = .halted .reservedOpcode 0xDABC ∧ t.reg 7 = 0) = true := by decide

/-- VK8 (R49): a fetch from KBSR polls; the fetched 0x8000 is RTI. -/
theorem test_fetch_from_kbsr_polls :
    nextWith (step ((State.reset.setPc 0xFE00).setInput [.byte 0x41]))
      (fun t => t.run = .halted .reservedOpcode 0x8000 ∧ t.pc = 0xFE01 ∧ t.cell 0xFE02 = 0x41) = true := by decide
/-- VK9. -/
theorem test_fetch_from_kbsr_without_a_byte :
    nextWith (step (State.reset.setPc 0xFE00)) (fun t => t.run = .running ∧ t.pc = 0xFE01 ∧ t.mem = []) = true := by decide
/-- VK10 (R186). -/
theorem test_failed_fetch_keeps_pc :
    nextWith (step ((State.reset.setPc 0xFE00).setInput [.error]))
      (fun t => t.run = .halted .inputError 0xFE00 ∧ t.pc = 0xFE00) = true := by decide
/-- VK4 (R186): a load whose poll fails. -/
theorem test_failed_load_keeps_dr :
    nextWith (stepOn 0xA001 ((State.reset.memWrite 0x3002 0xFE00).setInput [.error]))
      (fun t => t.run = .halted .inputError 0xFE00 ∧ t.pc = 0x3001 ∧ t.reg 0 = 0) = true := by decide
/-- D11: the end of input under the default policy is an error for a blocking read. -/
theorem test_getc_at_end_of_input :
    nextWith (stepOn 0xF020 (State.reset.setInput [.eof])) (fun t => t.run = .halted .inputError 0xF020) = true := by decide
/-- VT5 (R112): with no byte the step does not complete; R7 is already written. -/
theorem test_getc_waits :
    nextWith (stepOn 0xF020 State.reset)
      (fun t => t.run = .running ∧ t.reg 7 = 0x3001 ∧ t.wait = some .getc ∧ t.reg 0 = 0) = true := by decide
/-- R205: HALTED is terminal. -/
theorem test_halted_stays :
    nextWith (step (State.reset.raise .haltTrap 0xF025)) (fun t => t = State.reset.raise .haltTrap 0xF025) = true := by decide

/-! ### The loader (95_test_vectors.md 2.7) and reset (2.8) -/

/-- VI1. -/
theorem test_load_big_endian :
    launch [0x30, 0x00, 0x10, 0x21, 0x10, 0x00, 0xF0, 0x25] =
      .ready { ((State.reset.memWrite 0x3000 0x1021).memWrite 0x3001 0x1000).memWrite 0x3002 0xF025 with loaded := true } := by
  decide
/-- VI3, VI4, VI5, VI6, VI7. -/
theorem test_load_edges :
    launch [0xFF, 0xFF, 0x12, 0x34] = .ready { State.reset.memWrite 0xFFFF 0x1234 with loaded := true } ∧
    launch [0xFF, 0xFF, 0x12, 0x34, 0x56, 0x78] = .refused .tooLarge ∧
    launch [0x30, 0x00, 0x12] = .refused .shortRead ∧ launch [0x30] = .refused .noOrigin ∧
    launch [] = .refused .noOrigin := by decide
/-- R65, R206: no second load, none after the first step, none on a machine that waits or is HALTED. -/
theorem test_load_port_closes :
    ({ State.reset with loaded := true }).load 0x3000 [1] = .refused .portClosed ∧
    nextWith (step State.reset) (fun t => t.load 0x3000 [1] = .refused .portClosed) = true ∧
    nextWith (stepOn 0xF020 State.reset) (fun t => t.load 0x3000 [1] = .refused .portClosed) = true ∧
    nextWith (stepOn 0xF025 State.reset) (fun t => t.load 0x3000 [1] = .refused .portClosed) = true := by decide
/-- 2.8. -/
theorem test_reset : State.reset.pc = 0x3000 ∧ State.reset.cond = .zero ∧ State.reset.run = .running ∧
    State.reset.cell 0xFE00 = 0 ∧ State.reset.cell 0xFE02 = 0 ∧ State.reset.reg 7 = 0 := by decide
/-- The program's first instruction runs as the very next step (log 19), also where PC was at KBSR. -/
theorem test_withFetchWord :
    nextWith (step ((State.reset.setPc 0xFE00).withFetchWord 16 0x1021)) (fun t => t.reg 0 = 1 ∧ t.pc = 0x3001) = true := by
  decide


/-! ### Witnesses: a state and operands that meet the hypotheses of each statement, one for each clause -/

theorem witness_DecodeAndEncodeAgree :
    Instr.WellFormed (.jmp 6) ∧ Instr.WellFormed (.trap 0xFF) ∧ Instr.WellFormed .ret ∧ Instr.WellFormed .res := by decide
theorem witness_EveryWordIsInstructionHaltSignalOrError :
    decodeResult 0x8000 = .decodeError .reservedOpcode ∧ decodeResult 0xDFFF = .decodeError .reservedOpcode ∧
    decodeResult 0xFF25 = .haltSignal ∧ decodeResult 0xF01F = .decodeError .invalidTrapVector ∧
    decodeResult 0xF026 = .decodeError .invalidTrapVector ∧ decodeResult 0xF020 = .instr .getc ∧
    decodeResult 0xF024 = .instr .putsp ∧ decodeResult 0xEFFF = .instr (.lea 7 0x1FF) := by decide
/-- Every opcode number and every vector number occurs. -/
theorem witness_EveryWordIsInstructionHaltSignalOrError_numbers :
    (∀ k, k < 16 → (field (BitVec.ofNat 16 (4096 * k)) 12 4).toNat = k) ∧
    (∀ k, 0x1F ≤ k → k ≤ 0x26 → (field (BitVec.ofNat 16 (0xF000 + k)) 12 4).toNat = 0xF ∧
      (field (BitVec.ofNat 16 (0xF000 + k)) 0 8).toNat = k) := by
  constructor
  · decide
  · intro k h1 h2
    have : ∀ j, j < 8 → (field (BitVec.ofNat 16 (0xF000 + (0x1F + j))) 12 4).toNat = 0xF ∧
      (field (BitVec.ofNat 16 (0xF000 + (0x1F + j))) 0 8).toNat = 0x1F + j := by decide
    have h := this (k - 0x1F) (by omega)
    rwa [Nat.add_sub_cancel' h1] at h
/-- S1: the widths 1, 5, 9, 11 and 16 at their boundary values. -/
theorem witness_SignExtensionKeepsTheSignedValue :
    sext 1#1 = 0xFFFF ∧ sext 0x0F#5 = 0x000F ∧ sext 0x10#5 = 0xFFF0 ∧ sext 0x100#9 = 0xFF00 ∧ sext 0x3FF#11 = 0x03FF ∧
    sext 0x400#11 = 0xFC00 ∧ sext 0x8000#16 = 0x8000 := by decide
/-- S2: the ranges of COND at their ends. -/
theorem witness_SetccFollowsTheRangeOfTheWord :
    (State.reset.setcc 0).cond = .zero ∧ (State.reset.setcc 1).cond = .positive ∧
    (State.reset.setcc 0x7FFF).cond = .positive ∧ (State.reset.setcc 0x8000).cond = .negative ∧
    (State.reset.setcc 0xFFFF).cond = .negative := by decide
/-- Both clauses: COND is ZERO after reset, so a BR with z alone is taken and one with n and p is not. -/
theorem witness_BrIsTakenByItsConditionBits :
    (true = true ∧ State.reset.cond = .zero) ∧
    ¬((true = false ∧ false = false ∧ true = false) ∨ (true = true ∧ State.reset.cond = .negative) ∨
      (false = true ∧ State.reset.cond = .zero) ∨ (true = true ∧ State.reset.cond = .positive)) := by decide
theorem witness_MemoryReadPollsOnlyAtKeyboardStatus :
    (¬ ReadFails 0xFE01 State.reset) ∧ (¬ ReadFails 0xFE00 (State.reset.setInput [.byte 0x41])) ∧
    ReadFails 0xFE00 (State.reset.setInput [.error]) ∧ ReadFails 0xFE00 (State.reset.setInput [.eof]) :=
  ⟨fun h => absurd h.1 (by decide), (fun h => nomatch h.2), ⟨rfl, rfl⟩, ⟨rfl, rfl⟩⟩
theorem witness_ReadyBitIsNotLatched :
    (State.reset.setInput [.byte 0x41]).input = [.byte 0x41] ∧
    (State.reset.setInput [.byte 0x41, .byte 0x42]).input = .byte 0x41 :: .byte 0x42 :: [] := ⟨rfl, rfl⟩
theorem witness_CanonicalMemoriesThatReadAlikeAreEqual :
    Memory.wf [(0, 1#16), (65535, 0xFFFF#16)] ∧
    ∀ a : Word, Memory.read [(0, 1#16), (65535, 0xFFFF#16)] a.toNat = Memory.read [(0, 1#16), (65535, 0xFFFF#16)] a.toNat :=
  ⟨by decide, fun _ => rfl⟩
/-- LD: PC 0xFE00 and offset 0 read KBSR; after reset they do not. -/
theorem witness_LdLoadsThePcRelativeCell :
    (¬ ReadFails (offset State.reset.pc 0#9) State.reset) ∧
    ReadFails (offset (State.reset.setPc 0xFE00).pc 0#9) ((State.reset.setPc 0xFE00).setInput [.error]) :=
  ⟨fun h => absurd h.1 (by decide), by decide, rfl⟩
/-- LDI: a good pointer to a good datum, a good pointer to KBSR whose poll fails, a pointer read that fails. -/
theorem witness_LdiLoadsThroughThePointer :
    (¬ ReadFails (offset State.reset.pc 0#9) State.reset ∧ ¬ ReadFails (State.reset.cell 0x3000) State.reset) ∧
    (¬ ReadFails 0x3000 ((State.reset.memWrite 0x3000 0xFE00).setInput [.error]) ∧
      ReadFails (((State.reset.memWrite 0x3000 0xFE00).setInput [.error]).cell 0x3000)
        ((State.reset.memWrite 0x3000 0xFE00).setInput [.error])) ∧
    ReadFails (offset (State.reset.setPc 0xFE01).pc 0x1FF#9) ((State.reset.setPc 0xFE01).setInput [.error]) :=
  ⟨⟨fun h => absurd h.1 (by decide), fun h => absurd h.1 (by decide)⟩,
    ⟨fun h => absurd h.1 (by decide), by decide, rfl⟩, by decide, rfl⟩
theorem witness_LdrLoadsTheBasePlusOffsetCell :
    (¬ ReadFails (offset (State.reset.reg 1) 0x20#6) State.reset) ∧
    ReadFails (offset ((State.reset.setReg 1 0xFE20).reg 1) 0x20#6) ((State.reset.setReg 1 0xFE20).setInput [.error]) :=
  ⟨fun h => absurd h.1 (by decide), by decide, rfl⟩
theorem witness_StiStoresThroughThePointer :
    (¬ ReadFails (offset State.reset.pc 0xFF#9) State.reset) ∧
    ReadFails (offset (State.reset.setPc 0xFD01).pc 0xFF#9) ((State.reset.setPc 0xFD01).setInput [.eof]) :=
  ⟨fun h => absurd h.1 (by decide), by decide, rfl⟩
/-- Also the witness of StepRunsTheDecodedInstruction, WaitingForInputSplitsOneStep (no pause), StringScansRunToTheirEnd,
ZeroWordOnlyAdvancesPc and NoStateIsHiddenBetweenSteps: the machine after reset. -/
theorem witness_StoredWordIsFetchedNext :
    State.reset.run = .running ∧ State.reset.wait = none ∧ State.reset.pc ≠ config.kbsrAddr ∧
    State.reset.cell State.reset.pc = 0 ∧ State.reset.input = List.replicate 0 .pause := by decide
theorem witness_StepRunsTheDecodedInstruction :
    memRead State.reset.pc { State.reset with steps := 1 } = .ok 0 { State.reset with steps := 1 } ∧
    Instr.WellFormed (.addReg 7 7 7) ∧ encode (.addReg 7 7 7) = 0x1FC7 ∧
    (State.reset.memWrite 0x3000 0x1FC7).cell 0x3000 = encode (.addReg 7 7 7) := ⟨rfl, by decide, by decide, by decide⟩
/-- GETC and IN: a byte, no byte yet, an error. -/
theorem witness_GetcTakesOneByteIntoR0 :
    inRead (State.reset.setInput [.pause, .byte 0xFF]).input = .byte 0xFF [] ∧
    inRead (State.reset.setInput [.pause]).input = .waiting [] ∧
    inRead (State.reset.setInput [.error]).input = .error := ⟨rfl, rfl, rfl⟩
/-- PUTS: the empty string, and a string of two that wraps past 0xFFFF. -/
theorem witness_PutsSendsTheStringAtR0 :
    (nth State.reset 0 0 = 0 ∧ ∀ k, k ≤ 0 → (0 : Word) + BitVec.ofNat 16 k ≠ config.kbsrAddr) ∧
    (∀ k, k < 2 → nth ((State.reset.memWrite 0xFFFF 0x41).memWrite 0 0x42) 0xFFFF k ≠ 0) ∧
    nth ((State.reset.memWrite 0xFFFF 0x41).memWrite 0 0x42) 0xFFFF 2 = 0 ∧
    (∀ k, k ≤ 2 → (0xFFFF : Word) + BitVec.ofNat 16 k ≠ config.kbsrAddr) := by decide
/-- PUTSP: one full cell, then a last cell with one character, and one with none. -/
theorem witness_PutspSendsThePackedStringAtR0 :
    (∀ k, k < 1 → highByte (nth ((State.reset.memWrite 0 0x6548).memWrite 1 0x006C) 0 k) ≠ 0) ∧
    highByte (nth ((State.reset.memWrite 0 0x6548).memWrite 1 0x006C) 0 1) = 0 ∧
    highByte (nth (State.reset.memWrite 0 0x6548) 0 1) = 0 ∧
    (∀ k, k ≤ 1 → (0 : Word) + BitVec.ofNat 16 k ≠ config.kbsrAddr) := by decide
/-- Scans that run over KBSR: one that finds a byte there and ends in the next cell, one whose poll fails. -/
theorem witness_StringScansRunToTheirEnd :
    (∃ u, PutsScan 0xFE00 ((State.reset.setReg 0 0xFE00).setInput [.byte 0x41]).link u) ∧
    (∃ u, PutspScan 0xFE00 ((State.reset.setReg 0 0xFE00).setInput [.byte 0x41]).link u) ∧
    (∃ u, PutspScan 0xFE00 ((State.reset.setReg 0 0xFE00).setInput [.error]).link u) ∧
    ((State.reset.setReg 0 0xFE00).setInput [.byte 0x41]).run = .running ∧
    ((State.reset.setReg 0 0xFE00).setInput [.byte 0x41]).wait = none :=
  ⟨⟨_, .more _ 0x8000 _ _ _ rfl (by decide) (.done _ _ _ rfl)⟩,
    ⟨_, .more _ 0x8000 _ _ _ rfl (by decide) (by decide) (.done _ _ _ rfl)⟩, ⟨_, .fails _ _ _ rfl⟩, rfl, rfl⟩
/-- A memory with `v` in every cell. -/
def fullMemory (v : Word) : Memory := (List.range' 0 65536).map fun a => (a, v)

theorem read_full (v : Word) (n k a : Nat) (h1 : k ≤ a) (h2 : a < k + n) :
    Memory.read ((List.range' k n).map fun a => (a, v)) a = v := by
  induction n generalizing k with
  | zero => omega
  | succ n ih =>
    rw [List.range'_succ, List.map_cons, Memory.read]
    split
    · rfl
    · exact ih (k + 1) (by omega) (by omega)

/-- A machine whose cells all hold 0x4141, R0 = 0xFE01, with `n` bytes typed. -/
def fullMachine (n : Nat) : State :=
  { (State.reset.setReg 0 0xFE01).setInput (List.replicate n (.byte 0x41)) with mem := fullMemory 0x4141 }

theorem cell_full (n : Nat) (a : Word) : (fullMachine n).cell a = 0x4141 :=
  read_full 0x4141 65536 0 a.toNat (Nat.zero_le _) (by have := a.isLt; omega)

/-- No cell is zero and there is a byte for every poll: PUTS runs on. -/
theorem puts_runs_on (n m : Nat) (a : Word) (s : State) (hn : n ≤ m) (hi : s.input = List.replicate m (.byte 0x41))
    (hc : ∀ x, s.cell x ≠ 0) : ∃ b u, PutsRunsOn n a s b u := by
  induction n generalizing m a s with
  | zero => exact ⟨a, s, .here a s⟩
  | succ n ih =>
    by_cases ha : a = config.kbsrAddr
    · obtain ⟨m, rfl⟩ : ∃ j, m = j + 1 := ⟨m - 1, by omega⟩
      have hp : inPoll s.input = .byte 0x41 (List.replicate m (.byte 0x41)) := by rw [hi]; rfl
      have hm := memRead_kbsr s
      rw [hp] at hm
      obtain ⟨b, u, h⟩ := ih m (a + 1#16)
        ((((s.setInput (List.replicate m (.byte 0x41))).memWrite config.kbsrAddr 0x8000#16).memWrite config.kbdrAddr
          (zext 0x41#8)).outByte (lowByte 0x8000#16)) (by omega) rfl fun x => by
        rw [State.outByte_cell, State.cell_memWrite, State.cell_memWrite]
        split
        · decide
        · split
          · decide
          · exact hc x
      exact ⟨b, u, .more n a 0x8000 b s _ u (ha ▸ hm) (by decide) h⟩
    · obtain ⟨b, u, h⟩ := ih m (a + 1#16) (s.outByte (lowByte (s.cell a))) (by omega) hi hc
      exact ⟨b, u, .more n a _ b s s u (memRead_ordinary a s ha) (hc a) h⟩

/-- No high byte is zero and KBSR comes last, with a byte for its poll: PUTSP runs over all of memory. -/
theorem putsp_runs_on (n : Nat) (a : Word) (s : State) (hb : ∀ j, j < n → a + BitVec.ofNat 16 j ≠ config.kbsrAddr)
    (he : a + BitVec.ofNat 16 n = config.kbsrAddr) (hi : s.input = [.byte 0x41]) (hc : ∀ x, highByte (s.cell x) ≠ 0) :
    ∃ b u, PutspRunsOn (n + 1) a s b u := by
  induction n generalizing a s with
  | zero =>
    have ha : a = config.kbsrAddr := by simpa using he
    have hm := memRead_kbsr s
    rw [hi] at hm
    exact ⟨_, _, .more 0 a 0x8000 _ s _ _ (ha ▸ hm) (by decide) (.here _ _)⟩
  | succ n ih =>
    have sh : ∀ j, a + 1#16 + BitVec.ofNat 16 j = a + BitVec.ofNat 16 (j + 1) := fun j => by
      rw [BitVec.add_assoc, BitVec.ofNat_add, BitVec.add_comm (1#16)]
    have ha : a ≠ config.kbsrAddr := by simpa using hb 0 (by omega)
    obtain ⟨b, u, h⟩ := ih (a + 1#16) ((s.outByte (lowByte (s.cell a))).outByte (highByte (s.cell a)))
      (fun j hj => sh j ▸ hb (j + 1) (by omega)) (by rw [sh]; exact he) hi hc
    exact ⟨b, u, .more (n + 1) a _ b s s u (memRead_ordinary a s ha) (hc a) h⟩

/-- PUTS over all of memory, `k + 1` times. -/
theorem witness_ScanWithNoTerminatorStaysRunning_puts (k : Nat) :
    ∃ b u, PutsRunsOn (65536 * (k + 1)) ((fullMachine (65536 * (k + 1))).reg 0) (fullMachine (65536 * (k + 1))).link b u :=
  puts_runs_on _ _ _ _ (Nat.le_refl _) rfl fun x => by rw [State.link_cell, cell_full]; decide

theorem witness_ScanWithNoTerminatorStaysRunning_resumed :
    ((fullMachine 65536).suspend (.puts 0)).run = .running ∧ ((fullMachine 65536).suspend (.puts 0)).wait = some (.puts 0) ∧
    ∃ b u, PutsRunsOn 65536 0 ((fullMachine 65536).suspend (.puts 0)).takeUp b u :=
  ⟨rfl, rfl, puts_runs_on _ _ _ _ (Nat.le_refl _) rfl fun x => by
    rw [State.takeUp_cell, State.suspend_cell, cell_full]; decide⟩

/-- PUTSP from the cell after KBSR, at once and taken up again. -/
theorem witness_ScanWithNoTerminatorStaysRunning_putsp :
    (fullMachine 1).run = .running ∧ (fullMachine 1).wait = none ∧
    (∃ b u, PutspRunsOn 65536 ((fullMachine 1).reg 0) (fullMachine 1).link b u) ∧
    ∃ b u, PutspRunsOn 65536 0xFE01 ((fullMachine 1).suspend (.putsp 0xFE01)).takeUp b u := by
  have hb : ∀ j, j < 65535 → (0xFE01 : Word) + BitVec.ofNat 16 j ≠ config.kbsrAddr := fun j hj h => by
    have := congrArg BitVec.toNat h
    simp [config] at this
    omega
  have h0 : (fullMachine 1).reg 0 = 0xFE01 := State.reg_setReg_same State.reset 0 0xFE01
  refine ⟨rfl, rfl, ?_, ?_⟩
  · rw [h0]
    exact putsp_runs_on 65535 0xFE01 _ hb (by decide) rfl fun x => by rw [State.link_cell, cell_full]; decide
  · exact putsp_runs_on 65535 0xFE01 _ hb (by decide) rfl fun x => by
      rw [State.takeUp_cell, State.suspend_cell, cell_full]; decide

/-- A GETC and a scan, each left unfinished. -/
theorem witness_ResumedStepWritesOnlyWhatItsInstructionMay :
    (State.reset.suspend .getc).run = .running ∧ (State.reset.suspend .getc).wait = some .getc ∧
    (State.reset.suspend (.putsp 5)).run = .running ∧ (State.reset.suspend (.putsp 5)).wait = some (.putsp 5) :=
  ⟨rfl, rfl, rfl, rfl⟩
/-- An error, and an end of input where that is one. -/
theorem witness_WaitingForInputSplitsOneStep_error :
    (InEvent.error = .error) ∧ (InEvent.eof = .eof ∧ config.inEofPolicy = .error) := by decide
theorem witness_NoStateIsHiddenBetweenSteps : ¬ ReadFails State.reset.pc State.reset := fun h => absurd h.1 (by decide)
/-- The port is open after reset, up to the top of memory; closed after a load, in a wait, and HALTED. -/
theorem witness_LoadPortOpensOnceBeforeTheFirstStep :
    (State.reset.run = .running ∧ State.reset.wait = none ∧ State.reset.steps = 0 ∧ State.reset.loaded = false ∧
      (0xFFFF : Word).toNat + [0x1234#16].length ≤ 65536) ∧
    ({ State.reset with loaded := true }).loaded = true ∧ State.reset.beginStep.steps ≠ 0 ∧
    (State.reset.suspend .getc).wait ≠ none ∧ (State.reset.raise .haltTrap 0).run ≠ .running := by decide
theorem witness_LoadPortOpensOnceBeforeTheFirstStep_step : State.reset.Inv ∧ ∃ t, step State.reset = .next t :=
  ⟨⟨Memory.wf_reset, by decide⟩, _, rfl⟩
theorem witness_UnknownVectorStopsWithoutALink : Instr.WellFormed (.trap 0x26) ∧ Instr.WellFormed (.trap 0x1F) := by decide
theorem witness_FailedFetchLeavesPc :
    ((State.reset.setPc 0xFE00).setInput [.error]).run = .running ∧
    ((State.reset.setPc 0xFE00).setInput [.error]).wait = none ∧
    ReadFails 0xFE00 ((State.reset.setPc 0xFE00).setInput [.error]) := ⟨rfl, rfl, rfl, rfl⟩
/-- HALT, a reserved opcode and an unknown vector, each fetched at PC. -/
theorem witness_HaltAndDecodeErrorsEndTheStep :
    (∃ u, fetch (State.reset.memWrite 0x3000 0xF025) = .ok 0xF025 u) ∧ decodeResult 0xF025 = .haltSignal ∧
    (∃ u, fetch (State.reset.memWrite 0x3000 0x8000) = .ok 0x8000 u) ∧
    decodeResult 0x8000 = .decodeError .reservedOpcode ∧
    (∃ u, fetch (State.reset.memWrite 0x3000 0xF0FF) = .ok 0xF0FF u) ∧
    decodeResult 0xF0FF = .decodeError .invalidTrapVector :=
  ⟨⟨_, rfl⟩, by decide, ⟨_, rfl⟩, by decide, ⟨_, rfl⟩, by decide⟩
theorem witness_HaltedIsTerminal : (State.reset.raise .haltTrap 0xF025).run = .halted .haltTrap 0xF025 := rfl
theorem witness_WaitingForInputSplitsOneStep :
    (State.reset.setInput [.pause, .pause]).run = .running ∧ (State.reset.setInput [.pause, .pause]).wait = none ∧
    (State.reset.setInput [.pause, .pause]).input = List.replicate 2 .pause := ⟨rfl, rfl, rfl⟩
theorem witness_RegisterWritesFollowTheTable : ∃ t, exec .putsp State.reset = .next t := ⟨_, rfl⟩
theorem witness_CondIsWrittenOnlyByTheListedInstructions :
    ∃ t, exec .getc State.reset = .next t ∧ mayWriteCond .getc = false := ⟨_, rfl, rfl⟩
theorem witness_PcIsWrittenOnlyByTransfers :
    ∃ t, exec .inChar State.reset = .next t ∧ mayWritePc .inChar = false := ⟨_, rfl, rfl⟩
/-- STI after reset stores at the pointer's value 0; the other cells, the keyboard cells among them, are outside. -/
theorem witness_MemoryIsWrittenOnlyByStoresAndPolls :
    (∃ t, exec (.sti 0 0) State.reset = .next t) ∧ (1 : Word) ∉ storesTo (.sti 0 0) State.reset ∧
    (0xFE00 : Word) ∉ storesTo (.st 0 0) State.reset ∧ readsMemory (.st 0 0) = false := ⟨⟨_, rfl⟩, by decide, by decide, rfl⟩
/-- Also the witness of StepKeepsTheInvariant. -/
theorem witness_OutputOnlyGrowsAndInputIsTakenFromTheFront :
    State.reset.Inv ∧ (State.reset.memWrite 0x3000 0xF021).Inv ∧
    ∃ t, step (State.reset.memWrite 0x3000 0xF021) = .next t ∧ t.output = [.byte 0] :=
  ⟨⟨Memory.wf_reset, by decide⟩, ⟨Memory.wf_memWrite State.reset 0x3000 0xF021 Memory.wf_reset, by decide⟩, _, rfl, rfl⟩
/-- The invariant with an unfinished step: GETC waiting. -/
theorem witness_StepKeepsTheInvariant :
    ((((State.reset.beginStep.setPc 0x3001).setReg 7 0x3001).setIr 0xF020).suspend .getc).Inv :=
  ⟨Memory.wf_reset, by decide⟩
/-- Each of the four causes, from a fetched word, a fetch that polls, and a wait that ends in an error. -/
theorem witness_OnlyTheFourCausesHaltTheMachine :
    (∃ t, step (State.reset.memWrite 0x3000 0xF025) = .next t ∧ t.run = .halted .haltTrap 0xF025) ∧
    (∃ t, step (State.reset.memWrite 0x3000 0xD000) = .next t ∧ t.run = .halted .reservedOpcode 0xD000) ∧
    (∃ t, step (State.reset.memWrite 0x3000 0xF026) = .next t ∧ t.run = .halted .invalidTrapVector 0xF026) ∧
    (∃ t, step ((State.reset.setPc 0xFE00).setInput [.error]) = .next t ∧ t.run = .halted .inputError 0xFE00) ∧
    (∃ t, step (((State.reset.setIr 0xF020).suspend .getc).setInput [.eof]) = .next t ∧
      t.run = .halted .inputError 0xF020) :=
  ⟨⟨_, rfl, rfl⟩, ⟨_, rfl, rfl⟩, ⟨_, rfl, rfl⟩, ⟨_, rfl, rfl⟩, ⟨_, rfl, rfl⟩⟩
/-- An image that ends exactly at the top of memory. -/
theorem witness_LoadPlacesTheImageWords : (0xFFFF : Word).toNat + [0x1234#16].length ≤ 65536 := by decide
/-- An image one word longer, and an odd byte after one that fits. -/
theorem witness_BadImagesAreRefused :
    65536 < (0xFFFF : Word).toNat + [0x1234#16, 0x5678#16].length ∧ (0xFFFF : Word).toNat + [0x1234#16].length ≤ 65536 := by
  decide


end Sys2Proof.Tests
end

section
/-! PROOF. O6: sign and zero extension (00_scope.md R7). The model's `sext` is the library's `BitVec.signExtend`; the signed
value, the bits and the full-width case follow from that. -/

namespace Sys2Proof.Machine

/-- The mask of ones above a field of width `n`, as R7 writes it (`BitVec.ofNat` takes it modulo 65536). -/
theorem ones_shiftLeft_eq_ofNat (n : Nat) : 0xFFFF#16 <<< n = BitVec.ofNat 16 (0xFFFF * 2 ^ n) := by
  apply BitVec.eq_of_toNat_eq
  simp [Nat.shiftLeft_eq]

/-- The ones the mask sets are the bits from `n` up. -/
theorem getLsbD_ones_shiftLeft (n k : Nat) (hk : k < 16) : (0xFFFF#16 <<< n).getLsbD k = decide (n ≤ k) := by
  have hones : 0xFFFF#16 = BitVec.allOnes 16 := rfl
  simp only [hones, BitVec.getLsbD_shiftLeft, BitVec.getLsbD_allOnes, hk, show k - n < 16 by omega,
    decide_true, Bool.true_and, Bool.and_true, ← decide_not, Nat.not_lt]

theorem sext_eq_signExtend {n : Nat} (v : BitVec n) : sext v = v.signExtend 16 := by
  cases hsign : v.msb with
  | false => simp [sext, hsign, BitVec.signExtend_eq_setWidth_of_msb_false hsign]
  | true =>
    apply BitVec.eq_of_getLsbD_eq
    intro k hk
    have hsext : (sext v).getLsbD k = (v.getLsbD k || decide (n ≤ k)) := by
      simp only [sext, hsign, if_true, BitVec.getLsbD_or, BitVec.getLsbD_setWidth, getLsbD_ones_shiftLeft n k hk, hk,
        decide_true, Bool.true_and]
    rw [hsext, BitVec.getLsbD_signExtend, hsign]
    by_cases hkn : k < n
    · simp [hk, hkn, Nat.not_le.mpr hkn]
    · simp [hk, hkn, Nat.not_lt.mp hkn]

theorem toInt_sext {n : Nat} (v : BitVec n) (hn : n ≤ 16) : (sext v).toInt = v.toInt := by
  rw [sext_eq_signExtend, BitVec.toInt_signExtend_of_le hn]

/-- Bit `k` of the extension is bit `k` of the field, and above the field its top bit. -/
theorem getLsbD_sext {n : Nat} (v : BitVec n) (k : Nat) (hk : k < 16) :
    (sext v).getLsbD k = if k < n then v.getLsbD k else v.getLsbD (n - 1) := by
  rw [sext_eq_signExtend, BitVec.getLsbD_signExtend, BitVec.msb_eq_getLsbD_last]
  simp [hk]

/-- The sign bit of the extension is the field's top bit. -/
theorem getLsbD_sext_top {n : Nat} (v : BitVec n) (hn : n ≤ 16) : (sext v).getLsbD 15 = v.getLsbD (n - 1) := by
  rw [getLsbD_sext v 15 (by omega)]
  split
  · rw [show n - 1 = 15 by omega]
  · rfl

theorem sext_word (v : Word) : sext v = v := by
  rw [sext_eq_signExtend, BitVec.signExtend_eq]

theorem toNat_zext {n : Nat} (v : BitVec n) (hn : n ≤ 16) : (zext v).toNat = v.toNat :=
  BitVec.toNat_setWidth_of_le hn

/-- R7's formula, with the shifted mask written out as a number. -/
theorem sext_eq_formula {n : Nat} (v : BitVec n) :
    sext v = if v.getLsbD (n - 1) then v.setWidth 16 ||| BitVec.ofNat 16 (0xFFFF * 2 ^ n) else v.setWidth 16 := by
  rw [sext, BitVec.msb_eq_getLsbD_last, ones_shiftLeft_eq_ofNat]

/-- Settles O6: each part by its lemma about `sext` or `zext`; `sext_16` is the identity. -/
theorem signExtensionKeepsTheSignedValue : Obligations.SignExtensionKeepsTheSignedValue := by
  intro n v _ hn
  refine ⟨sext_eq_formula v, toInt_sext v hn, getLsbD_sext v, getLsbD_sext_top v hn, ?_, toNat_zext v hn⟩
  rintro rfl
  rw [sext_word]

end Sys2Proof.Machine
end

section
/-! PROOF. The state's family (10_state.md), its common layer: what one step is, by cases; and what an instruction, or an
unfinished step that goes on, writes of the registers, COND, PC and the channels (R15, R19, R21, R31, R33). -/

namespace Sys2Proof.Machine

open Sys2Proof.Claims

/-! ### The step, by cases -/

theorem step_halted {s : State} {c : Cause} {info : Word} (h : s.run = .halted c info) : step s = .next s := by
  simp only [step, h]

theorem step_resume {s : State} {u : Unfinished} (hrun : s.run = .running) (hw : s.wait = some u) :
    step s = .next (resume u s) := by
  simp only [step, hrun, hw]

theorem step_fetch_ok {s v : State} {w : Word} (hrun : s.run = .running) (hw : s.wait = none) (hf : fetch s = .ok w v) :
    step s = exec (decode w) v := by
  simp only [step, hrun, hw, hf]

theorem step_fetch_stop {s v : State} (hrun : s.run = .running) (hw : s.wait = none) (hf : fetch s = .stop v) :
    step s = .next v := by
  simp only [step, hrun, hw, hf]

/-- Everything a step can be: none at all (HALTED), an unfinished one that goes on, a fetch that fails, or a fetch and the
execute phase of its word (40_instruction_cycle.md R101). -/
theorem step_cases {s t : State} (h : step s = .next t) :
    (s.run ≠ .running ∧ t = s) ∨
    (∃ u, s.run = .running ∧ s.wait = some u ∧ t = resume u s) ∨
    (s.run = .running ∧ s.wait = none ∧ fetch s = .stop t) ∨
    (∃ w v, s.run = .running ∧ s.wait = none ∧ fetch s = .ok w v ∧ exec (decode w) v = .next t) := by
  cases hrun : s.run with
  | halted c info =>
    rw [step_halted hrun] at h
    cases h
    exact .inl ⟨nofun, rfl⟩
  | running =>
    cases hw : s.wait with
    | some u =>
      rw [step_resume hrun hw] at h
      cases h
      exact .inr (.inl ⟨u, rfl, rfl, rfl⟩)
    | none =>
      cases hf : fetch s with
      | stop v =>
        rw [step_fetch_stop hrun hw hf] at h
        cases h
        exact .inr (.inr (.inl ⟨rfl, rfl, rfl⟩))
      | ok w v =>
        rw [step_fetch_ok hrun hw hf] at h
        exact .inr (.inr (.inr ⟨w, v, rfl, rfl, rfl, h⟩))

/-! ### The channels only advance -/

/-- Output is only appended, and input only taken from the front. -/
structure ChannelsAdvance (s t : State) : Prop where
  output : s.output <+: t.output
  input : t.input <:+ s.input

theorem ChannelsAdvance.refl (s : State) : ChannelsAdvance s s := ⟨List.prefix_refl _, List.suffix_refl _⟩

theorem ChannelsAdvance.trans {s t u : State} (h : ChannelsAdvance s t) (k : ChannelsAdvance t u) : ChannelsAdvance s u :=
  ⟨h.output.trans k.output, k.input.trans h.input⟩

theorem fetch_ok_channels {s v : State} {w : Word} (h : fetch s = .ok w v) : ChannelsAdvance s v := by
  obtain ⟨u, hu, rfl⟩ := fetch_ok h
  have hread : ReadFrame s.beginStep u := (memRead_ok hu).1
  exact ⟨hread.output, hread.input⟩

theorem fetch_stop_channels {s v : State} (h : fetch s = .stop v) : ChannelsAdvance s v := by
  have hread : ReadFrame s.beginStep v := ReadFrame.of_stop (fetch_stop h)
  exact ⟨hread.output, hread.input⟩

/-! ### What an operation may write -/

/-- From `s` to `t` no register outside `rs` is written, COND only if `mayCond`, PC only if `mayPc`, and the channels only
advance. The rules below say for each operation of the state which of these it is. -/
structure WritesOnly (rs : List Reg) (mayCond mayPc : Bool) (s t : State) : Prop extends ChannelsAdvance s t where
  regs : SameRegsBut rs s t
  cond : mayCond = false → t.cond = s.cond
  pc : mayPc = false → t.pc = s.pc

section Rules

variable {rs : List Reg} {mayCond mayPc : Bool} {s t u : State}

theorem WritesOnly.of_eq (hregs : t.regs = s.regs) (hcond : t.cond = s.cond) (hpc : t.pc = s.pc)
    (hout : t.output = s.output) (hin : t.input = s.input) : WritesOnly rs mayCond mayPc s t where
  output := hout ▸ List.prefix_refl _
  input := hin ▸ List.suffix_refl _
  regs r _ := by simp only [State.reg, hregs]
  cond _ := hcond
  pc _ := hpc

theorem WritesOnly.refl (s : State) : WritesOnly rs mayCond mayPc s s := .of_eq rfl rfl rfl rfl rfl

theorem WritesOnly.trans (h : WritesOnly rs mayCond mayPc s t) (k : WritesOnly rs mayCond mayPc t u) :
    WritesOnly rs mayCond mayPc s u where
  toChannelsAdvance := h.toChannelsAdvance.trans k.toChannelsAdvance
  regs r hr := (k.regs r hr).trans (h.regs r hr)
  cond hc := (k.cond hc).trans (h.cond hc)
  pc hp := (k.pc hp).trans (h.pc hp)

theorem WritesOnly.of_readFrame (h : ReadFrame s t) : WritesOnly rs mayCond mayPc s t where
  output := h.output
  input := h.input
  regs r _ := h.reg r
  cond _ := h.cond
  pc _ := h.pc

theorem WritesOnly.of_setInput {rest : List InEvent} (h : rest <:+ s.input) :
    WritesOnly rs mayCond mayPc s (s.setInput rest) where
  output := List.prefix_refl _
  input := h
  regs _ _ := rfl
  cond _ := rfl
  pc _ := rfl

theorem WritesOnly.of_emit (s : State) (es : List OutEvent) : WritesOnly rs mayCond mayPc s (s.emit es) :=
  .of_readFrame (ReadFrame.emit s es)

theorem WritesOnly.of_setReg {r : Reg} (h : r ∈ rs) (s : State) (v : Word) :
    WritesOnly rs mayCond mayPc s (s.setReg r v) where
  toChannelsAdvance := ⟨List.prefix_refl _, List.suffix_refl _⟩
  regs q hq := State.reg_setReg_other s r q v fun e => hq (e ▸ h)
  cond _ := rfl
  pc _ := rfl

theorem WritesOnly.of_link (h : 7#3 ∈ rs) (s : State) : WritesOnly rs mayCond mayPc s s.link :=
  .of_setReg h s s.pc

theorem WritesOnly.of_writeDr {dr : Reg} (h : dr ∈ rs) (s : State) (v : Word) :
    WritesOnly rs true mayPc s (s.writeDr dr v) where
  toChannelsAdvance := ⟨List.prefix_refl _, List.suffix_refl _⟩
  regs := (WritesOnly.of_setReg (mayCond := true) (mayPc := mayPc) h s v).regs
  cond := nofun
  pc _ := rfl

theorem WritesOnly.of_setPc (s : State) (v : Word) : WritesOnly rs mayCond true s (s.setPc v) where
  toChannelsAdvance := ⟨List.prefix_refl _, List.suffix_refl _⟩
  regs _ _ := rfl
  cond _ := rfl
  pc := nofun

theorem WritesOnly.of_putChar (h : 0#3 ∈ rs) (s : State) (b : Byte) :
    WritesOnly rs config.trapInSetsFlags mayPc s (s.putChar b) := by
  obtain ⟨-, hregs, hcond, hpc, -, -, hin, hout, -⟩ := State.putChar_frame s b
  exact
    { output := hout ▸ List.prefix_refl _
      input := hin ▸ List.suffix_refl _
      regs := fun r hr => hregs r fun e => hr (e ▸ h)
      cond := fun hflag => by simpa [hflag] using hcond
      pc := fun _ => hpc }

/-- A memory read with what follows it; a read that stops the machine writes nothing. -/
theorem WritesOnly.after_memRead (a : Word) (s : State) {k : Word → State → State}
    (hk : ∀ v t, WritesOnly rs mayCond mayPc t (k v t)) : WritesOnly rs mayCond mayPc s ((memRead a s).after k) := by
  cases h : memRead a s with
  | ok v t => exact (WritesOnly.of_readFrame (memRead_ok h).1).trans (hk v t)
  | stop t => exact .of_readFrame (ReadFrame.of_stop h)

end Rules

/-! ### The blocking read of GETC and IN -/

/-- What the blocking read of GETC or IN makes of `s`: the byte in R0 after the events `echo` sends for it, a wait that
leaves `u` unfinished, or InputError with the instruction word (44_trap.md R157, R160). -/
inductive BlockingRead (u : Unfinished) (echo : Byte → List OutEvent) (s : State) : State → Prop
  | byte (b : Byte) (rest : List InEvent) : inRead s.input = .byte b rest →
      BlockingRead u echo s (((s.setInput rest).emit (echo b)).putChar b)
  | waiting (rest : List InEvent) : inRead s.input = .waiting rest →
      BlockingRead u echo s ((s.setInput rest).suspend u)
  | error : inRead s.input = .error → BlockingRead u echo s (s.raise .inputError s.ir)

theorem State.emit_nil (s : State) : s.emit [] = s := by simp [State.emit]

theorem State.emit_emit (s : State) (es fs : List OutEvent) : (s.emit es).emit fs = s.emit (es ++ fs) := by
  simp [State.emit]

/-- GETC echoes nothing. -/
theorem getcRead_blockingRead (s : State) : BlockingRead .getc (fun _ => []) s (getcRead s) := by
  rcases getcRead_cases s with ⟨b, rest, hin, e⟩ | ⟨rest, hin, e⟩ | ⟨hin, e⟩ <;> rw [e]
  · simpa only [State.emit_nil] using BlockingRead.byte (u := .getc) (echo := fun _ => []) b rest hin
  · exact .waiting rest hin
  · exact .error hin

/-- IN echoes the byte and flushes. -/
theorem inCharRead_blockingRead (s : State) : BlockingRead .inChar (fun b => [.byte b, .flush]) s (inCharRead s) := by
  rcases inCharRead_cases s with ⟨b, rest, hin, e⟩ | ⟨rest, hin, e⟩ | ⟨hin, e⟩ <;> rw [e]
  · rw [State.outFlush, State.outByte, State.emit_emit]
    exact .byte b rest hin
  · exact .waiting rest hin
  · exact .error hin

section

variable {u : Unfinished} {echo : Byte → List OutEvent} {s t : State}

theorem BlockingRead.writesOnly {rs : List Reg} {mayPc : Bool} (h : BlockingRead u echo s t) (h0 : 0#3 ∈ rs) :
    WritesOnly rs config.trapInSetsFlags mayPc s t := by
  cases h with
  | byte b rest hin =>
    exact ((WritesOnly.of_setInput (inRead_byte_suffix hin)).trans (.of_emit _ _)).trans (.of_putChar h0 _ b)
  | waiting rest hin =>
    exact (WritesOnly.of_setInput (inRead_waiting_suffix hin)).trans (.of_readFrame (ReadFrame.suspend _ u))
  | error => exact .of_eq rfl rfl rfl rfl rfl

theorem BlockingRead.mem (h : BlockingRead u echo s t) : t.mem = s.mem := by
  cases h with
  | byte b rest => simp [State.putChar_frame]
  | waiting | error => rfl

/-- With no echo nothing is sent. -/
theorem BlockingRead.output (h : BlockingRead u (fun _ => []) s t) : t.output = s.output := by
  cases h with
  | byte b rest => simp [State.putChar_frame]
  | waiting | error => rfl

/-- A blocking read leaves a step unfinished only in a machine that runs on. -/
theorem BlockingRead.wait_or_run (h : BlockingRead u echo s t) : t.wait = s.wait ∨ t.run = s.run := by
  cases h with
  | byte b rest => exact .inl (by simp [State.putChar_frame])
  | waiting => exact .inr rfl
  | error => exact .inl rfl

/-- A blocking read that changes the run state has failed, and leaves the registers and COND (60_exceptions.md R186). -/
theorem BlockingRead.stop_keeps (h : BlockingRead u echo s t) (hrun : t.run ≠ s.run) :
    SameRegs s t ∧ t.cond = s.cond := by
  cases h with
  | byte b rest => exact absurd (by simp [State.putChar_frame]) hrun
  | waiting => exact absurd rfl hrun
  | error => exact ⟨fun _ => rfl, rfl⟩

end

/-! ### Every instruction -/

/-- What each instruction writes: the registers of R15's table, COND and PC only where R21 and R19 list it. -/
theorem exec_writesOnly {i : Instr} {s t : State} (h : exec i s = .next t) :
    WritesOnly (regWrites i) (mayWriteCond i) (mayWritePc i) s t := by
  cases i with
  | addReg dr | addImm dr | andReg dr | andImm dr | not dr | lea dr =>
    cases h
    exact .of_writeDr (List.mem_singleton_self dr) s _
  | ld dr | ldr dr =>
    cases h
    exact .after_memRead _ s fun v t => .of_writeDr (List.mem_singleton_self dr) t v
  | ldi dr =>
    cases h
    exact .after_memRead _ s fun ea t => .after_memRead ea t fun v u => .of_writeDr (List.mem_singleton_self dr) u v
  | st | str => cases h; exact .of_eq rfl rfl rfl rfl rfl
  | sti => cases h; exact .after_memRead _ s fun _ _ => .of_eq rfl rfl rfl rfl rfl
  | br =>
    cases h
    split
    · exact .of_setPc s _
    · exact .refl s
  | jmp | ret => cases h; exact .of_setPc s _
  | jsr | jsrr =>
    cases h
    exact (WritesOnly.of_link (List.mem_singleton_self _) s).trans (.of_setPc s.link _)
  | getc =>
    cases h
    exact (WritesOnly.of_link (by decide) s).trans ((getcRead_blockingRead s.link).writesOnly (by decide))
  | inChar =>
    cases h
    have hprompt : WritesOnly [7#3, 0#3] config.trapInSetsFlags false s.link ((s.link.outBytes config.inPrompt).outFlush) :=
      (WritesOnly.of_emit _ _).trans (.of_emit _ _)
    exact ((WritesOnly.of_link (by decide) s).trans hprompt).trans ((inCharRead_blockingRead _).writesOnly (by decide))
  | out =>
    cases h
    exact (WritesOnly.of_link (List.mem_singleton_self _) s).trans (.of_emit s.link _)
  | puts =>
    cases h
    exact (WritesOnly.of_link (List.mem_singleton_self _) s).trans (.of_readFrame (putsLoop_frame scanPass _ s.link).1)
  | putsp =>
    cases h
    exact (WritesOnly.of_link (List.mem_singleton_self _) s).trans (.of_readFrame (putspLoop_frame scanPass _ s.link).1)
  | halt =>
    cases h
    have hstop (v : State) : WritesOnly (regWrites .halt) false false v (v.outFlush.raise .haltTrap s.ir) :=
      (WritesOnly.of_emit v _).trans (.of_eq rfl rfl rfl rfl rfl)
    split
    · next hlinks => exact (WritesOnly.of_link (by simp [regWrites, hlinks]) s).trans (hstop s.link)
    · exact hstop s
  | trap | rti | res => cases h; exact .of_eq rfl rfl rfl rfl rfl

/-! ### An unfinished step that goes on -/

/-- The two kinds of unfinished step: a blocking read, or a scan, which keeps the frame of its reads. -/
theorem resume_cases (u : Unfinished) (s : State) :
    (awaitsInput u = true ∧ ∃ echo, BlockingRead u echo s.takeUp (resume u s)) ∨
    (awaitsInput u = false ∧ ReadFrame s.takeUp (resume u s) ∧
      ((resume u s).wait = none ∨ (resume u s).run = s.run)) := by
  cases u with
  | getc => exact .inl ⟨rfl, _, getcRead_blockingRead s.takeUp⟩
  | inChar => exact .inl ⟨rfl, _, inCharRead_blockingRead s.takeUp⟩
  | puts a =>
    obtain ⟨hframe, hwait⟩ := putsLoop_frame scanPass a s.takeUp
    exact .inr ⟨rfl, hframe, hwait.imp_right And.right⟩
  | putsp a =>
    obtain ⟨hframe, hwait⟩ := putspLoop_frame scanPass a s.takeUp
    exact .inr ⟨rfl, hframe, hwait.imp_right And.right⟩

theorem resume_writesOnly (u : Unfinished) (s : State) :
    WritesOnly (if awaitsInput u then [0#3] else []) (awaitsInput u && config.trapInSetsFlags) false s (resume u s) := by
  have htake {rs mayCond} : WritesOnly rs mayCond false s s.takeUp := .of_eq rfl rfl rfl rfl rfl
  rcases resume_cases u s with ⟨hin, echo, hread⟩ | ⟨hscan, hframe, -⟩
  · rw [hin]
    exact htake.trans (hread.writesOnly (List.mem_singleton_self _))
  · exact htake.trans (.of_readFrame hframe)

theorem resume_cell (u : Unfinished) (s : State) (a : Word)
    (h : awaitsInput u = true ∨ (a ≠ config.kbsrAddr ∧ a ≠ config.kbdrAddr)) : (resume u s).cell a = s.cell a := by
  rcases resume_cases u s with ⟨-, echo, hread⟩ | ⟨hscan, hframe, -⟩
  · exact congrArg (Memory.read · a.toNat) hread.mem
  · obtain ⟨hkbsr, hkbdr⟩ := h.resolve_left (by simp [hscan])
    exact hframe.cell a hkbsr hkbdr

theorem resume_getc_output (s : State) : (resume .getc s).output = s.output :=
  (getcRead_blockingRead s.takeUp).output

theorem resume_wait_or_run (u : Unfinished) (s : State) : (resume u s).wait = none ∨ (resume u s).run = s.run := by
  rcases resume_cases u s with ⟨-, echo, hread⟩ | ⟨-, -, hwait⟩
  · exact hread.wait_or_run
  · exact hwait

theorem resume_stop_keeps (u : Unfinished) (s : State) (h : (resume u s).run ≠ s.run) :
    SameRegs s (resume u s) ∧ (resume u s).cond = s.cond := by
  rcases resume_cases u s with ⟨-, echo, hread⟩ | ⟨-, hframe, -⟩
  · exact hread.stop_keeps h
  · exact ⟨hframe.reg, hframe.cond⟩

end Sys2Proof.Machine
end

section
/-! PROOF. O51, O45, O47, O48, O49: what a step, an instruction and an unfinished step that goes on may write, each read off
the frames above. -/

namespace Sys2Proof.Machine

open Sys2Proof.Claims

theorem step_channels {s t : State} (h : step s = .next t) : ChannelsAdvance s t := by
  rcases step_cases h with ⟨-, rfl⟩ | ⟨u, -, -, rfl⟩ | ⟨-, -, hf⟩ | ⟨w, v, -, -, hf, hexec⟩
  · exact .refl t
  · exact (resume_writesOnly u s).toChannelsAdvance
  · exact fetch_stop_channels hf
  · exact (fetch_ok_channels hf).trans (exec_writesOnly hexec).toChannelsAdvance

/-- Settles O51: the fetch, the execute phase and a resumed step each only advance the channels. -/
theorem outputOnlyGrowsAndInputIsTakenFromTheFront : Obligations.OutputOnlyGrowsAndInputIsTakenFromTheFront := by
  intro s t h
  exact ⟨(step_channels h).output, (step_channels h).input⟩

/-- Settles O45: its frame is `resume_writesOnly`; the run state and the wait are `resume_wait_or_run` and
`resume_stop_keeps`. -/
theorem resumedStepWritesOnlyWhatItsInstructionMay : Obligations.ResumedStepWritesOnlyWhatItsInstructionMay := by
  intro s u hrun hw
  have hframe := resume_writesOnly u s
  have hown := resume_own u s
  have hwait : (resume u s).wait = none ∨ (resume u s).run = .running := hrun ▸ resume_wait_or_run u s
  refine ⟨resume u s, step_resume hrun hw, hframe.regs, hframe.pc rfl, hframe.cond, resume_cell u s, ?_, fun hstop => ?_,
    hwait.resolve_left, hown.ir, hown.steps, hown.loaded⟩
  · rintro rfl
    exact resume_getc_output s
  · obtain ⟨hregs, hcond⟩ := resume_stop_keeps u s (hrun ▸ hstop)
    exact ⟨hregs, hcond, hwait.resolve_right hstop⟩

/-- Settles O47. -/
theorem registerWritesFollowTheTable : Obligations.RegisterWritesFollowTheTable :=
  fun _ _ _ h => (exec_writesOnly h).regs

/-- Settles O48. -/
theorem condIsWrittenOnlyByTheListedInstructions : Obligations.CondIsWrittenOnlyByTheListedInstructions :=
  fun _ _ _ h => (exec_writesOnly h).cond

/-- Settles O49. -/
theorem pcIsWrittenOnlyByTransfers : Obligations.PcIsWrittenOnlyByTransfers :=
  fun _ _ _ h => (exec_writesOnly h).pc

end Sys2Proof.Machine
end

section
/-! PROOF. O55: no hidden state (10_state.md R29). Every operation commutes with a change of the model's own fields `ir`,
`steps` and `loaded`; the instructions that read `ir` for their information word read the word just fetched. -/

namespace Sys2Proof.Machine

open Sys2Proof.Claims

/-- The state with the three fields of the model's own that no rule reads across steps set anew (logs 16, 17, 29). -/
def State.withOwn (s : State) (w : Word) (n : Nat) (l : Bool) : State := { s with ir := w, steps := n, loaded := l }

@[simp] theorem State.withOwn_input (s : State) (w : Word) (n : Nat) (l : Bool) : (s.withOwn w n l).input = s.input := rfl
@[simp] theorem State.withOwn_cond (s : State) (w : Word) (n : Nat) (l : Bool) : (s.withOwn w n l).cond = s.cond := rfl
@[simp] theorem State.withOwn_pc (s : State) (w : Word) (n : Nat) (l : Bool) : (s.withOwn w n l).pc = s.pc := rfl

/-- The same change of the state an access leaves. -/
def Access.withOwn {α : Type} (x : Access α) (w : Word) (n : Nat) (l : Bool) : Access α :=
  match x with
  | .ok v s => .ok v (s.withOwn w n l)
  | .stop s => .stop (s.withOwn w n l)

section

variable (w : Word) (n : Nat) (l : Bool)

theorem Access.after_withOwn {α : Type} (x : Access α) {k : α → State → State}
    (hk : ∀ v t, k v (t.withOwn w n l) = (k v t).withOwn w n l) :
    (x.withOwn w n l).after k = (x.after k).withOwn w n l := by
  cases x with
  | ok v s => exact hk v s
  | stop s => rfl

theorem memRead_withOwn (a : Word) (s : State) : memRead a (s.withOwn w n l) = (memRead a s).withOwn w n l := by
  by_cases ha : a = config.kbsrAddr
  · subst ha
    rw [memRead_kbsr, memRead_kbsr, State.withOwn_input]
    cases inPoll s.input <;> rfl
  · rw [memRead_ordinary a _ ha, memRead_ordinary a s ha]
    rfl

/-- A memory read with what follows it, when that commutes with the change. -/
theorem after_memRead_withOwn (a : Word) (s : State) {k : Word → State → State}
    (hk : ∀ v t, k v (t.withOwn w n l) = (k v t).withOwn w n l) :
    (memRead a (s.withOwn w n l)).after k = ((memRead a s).after k).withOwn w n l := by
  rw [memRead_withOwn, Access.after_withOwn w n l _ hk]

theorem putsLoop_withOwn (k : Nat) (a : Word) (s : State) :
    putsLoop k a (s.withOwn w n l) = (putsLoop k a s).withOwn w n l := by
  induction k generalizing a s with
  | zero => rfl
  | succ k ih =>
    refine after_memRead_withOwn w n l a s fun v t => ?_
    by_cases h0 : v = 0#16
    · simp only [h0, if_true]; rfl
    · simp only [h0, if_false]; exact ih (a + 1#16) (t.outByte (lowByte v))

theorem putspLoop_withOwn (k : Nat) (a : Word) (s : State) :
    putspLoop k a (s.withOwn w n l) = (putspLoop k a s).withOwn w n l := by
  induction k generalizing a s with
  | zero => rfl
  | succ k ih =>
    refine after_memRead_withOwn w n l a s fun v t => ?_
    by_cases h0 : v = 0#16
    · simp only [h0, if_true]; rfl
    · by_cases hh : highByte v = 0#8
      · simp only [h0, hh, if_true, if_false]; rfl
      · simp only [h0, hh, if_false]
        exact ih (a + 1#16) ((t.outByte (lowByte v)).outByte (highByte v))

theorem putChar_withOwn (s : State) (b : Byte) : (s.withOwn w n l).putChar b = (s.putChar b).withOwn w n l := by
  unfold State.putChar
  split <;> rfl

/-- GETC's read uses `ir` as its information word, so only the other two fields may change. -/
theorem getcRead_withOwn (s : State) : getcRead (s.withOwn s.ir n l) = (getcRead s).withOwn s.ir n l := by
  unfold getcRead
  rw [State.withOwn_input]
  cases inRead s.input with
  | byte b rest => exact putChar_withOwn s.ir n l (s.setInput rest) b
  | waiting | error => rfl

/-- IN's read likewise. -/
theorem inCharRead_withOwn (s : State) : inCharRead (s.withOwn s.ir n l) = (inCharRead s).withOwn s.ir n l := by
  unfold inCharRead
  rw [State.withOwn_input]
  cases inRead s.input with
  | byte b rest => exact putChar_withOwn s.ir n l (((s.setInput rest).outByte b).outFlush) b
  | waiting | error => rfl

/-- Two states that differ only in `steps` and `loaded` execute to states that differ only in them. -/
theorem exec_withOwn (i : Instr) (s : State) :
    ∃ t, exec i s = .next t ∧ exec i (s.withOwn s.ir n l) = .next (t.withOwn s.ir n l) := by
  cases i with
  | ld | ldr | sti =>
    exact ⟨_, rfl, congrArg Host.Outcome.next (after_memRead_withOwn s.ir n l _ s fun _ _ => rfl)⟩
  | ldi =>
    exact ⟨_, rfl, congrArg Host.Outcome.next (after_memRead_withOwn s.ir n l _ s fun ea t =>
      after_memRead_withOwn s.ir n l ea t fun _ _ => rfl)⟩
  | br nb zb pb off9 =>
    refine ⟨_, rfl, congrArg Host.Outcome.next ?_⟩
    rw [State.withOwn_cond]
    split <;> rfl
  | getc => exact ⟨_, rfl, congrArg Host.Outcome.next (getcRead_withOwn n l s.link)⟩
  | inChar =>
    exact ⟨_, rfl, congrArg Host.Outcome.next (inCharRead_withOwn n l ((s.link.outBytes config.inPrompt).outFlush))⟩
  | puts => exact ⟨_, rfl, congrArg Host.Outcome.next (putsLoop_withOwn s.ir n l scanPass (s.link.reg 0#3) s.link)⟩
  | putsp => exact ⟨_, rfl, congrArg Host.Outcome.next (putspLoop_withOwn s.ir n l scanPass (s.link.reg 0#3) s.link)⟩
  | halt =>
    refine ⟨_, rfl, congrArg Host.Outcome.next ?_⟩
    split <;> rfl
  | _ => exact ⟨_, rfl, rfl⟩

/-- The fetch reads none of the three fields: it keeps the new word, counts on, and leaves `loaded`. -/
theorem fetch_ok_withOwn {s u : State} {v : Word} (h : fetch s = .ok v u) :
    fetch (s.withOwn w n l) = .ok v (u.withOwn v (n + 1) l) := by
  obtain ⟨x, hx, rfl⟩ := fetch_ok h
  have hread : memRead s.pc (s.withOwn w n l).beginStep = .ok v (x.withOwn w (n + 1) l) :=
    (memRead_withOwn w (n + 1) l s.pc s.beginStep).trans (by rw [hx]; rfl)
  simp only [fetch, State.withOwn_pc, hread]
  rfl

theorem fetch_stop_withOwn {s u : State} (h : fetch s = .stop u) :
    fetch (s.withOwn w n l) = .stop (u.withOwn w (n + 1) l) := by
  have hread : memRead s.pc (s.withOwn w n l).beginStep = .stop (u.withOwn w (n + 1) l) :=
    (memRead_withOwn w (n + 1) l s.pc s.beginStep).trans (by rw [fetch_stop h]; rfl)
  simp only [fetch, State.withOwn_pc, hread]

end

/-- A fetch that stops the machine was a poll of KBSR that failed. -/
theorem readFails_of_fetch_stop {s t : State} (h : fetch s = .stop t) : ReadFails s.pc s := by
  obtain ⟨hpc, hpoll, -⟩ := memRead_stop (fetch_stop h)
  exact ⟨hpc, hpoll⟩

/-- The word a fetch returns is the `ir` of the state it leaves. -/
theorem fetch_ok_ir {s u : State} {v : Word} (h : fetch s = .ok v u) : u.ir = v := by
  obtain ⟨x, -, rfl⟩ := fetch_ok h
  rfl

/-- A step of a machine whose own fields are set anew is the step with its own fields set anew; the word is the one fetched,
whatever the earlier one was, unless the fetch fails. -/
theorem step_withOwn (s : State) (w : Word) (n : Nat) (l : Bool) (hrun : s.run = .running) (hw : s.wait = none) :
    ∃ t w', step s = .next t ∧ step (s.withOwn w n l) = .next (t.withOwn w' (n + 1) l) ∧
      (¬ ReadFails s.pc s → w' = t.ir) := by
  cases hf : fetch s with
  | stop u =>
    refine ⟨u, w, step_fetch_stop hrun hw hf, ?_, fun hok => absurd (readFails_of_fetch_stop hf) hok⟩
    exact step_fetch_stop (s := s.withOwn w n l) hrun hw (fetch_stop_withOwn w n l hf)
  | ok v u =>
    obtain ⟨t, hexec, hexec'⟩ := exec_withOwn (n + 1) l (decode v) u
    have hir : u.ir = v := fetch_ok_ir hf
    rw [hir] at hexec'
    refine ⟨t, v, (step_fetch_ok hrun hw hf).trans hexec, ?_, fun _ => ((exec_own hexec).ir.trans hir).symm⟩
    exact (step_fetch_ok (s := s.withOwn w n l) hrun hw (fetch_ok_withOwn w n l hf)).trans hexec'

/-- Settles O55: the two next states differ by `withOwn`, which changes none of the fields compared. -/
theorem noStateIsHiddenBetweenSteps : Obligations.NoStateIsHiddenBetweenSteps := by
  intro s w n l hrun hw
  obtain ⟨t, w', hstep, hstep', hir⟩ := step_withOwn s w n l hrun hw
  exact ⟨t, t.withOwn w' (n + 1) l, hstep, hstep', rfl, rfl, rfl, rfl, rfl, rfl, rfl, rfl, hir⟩

end Sys2Proof.Machine
end

section
/-! PROOF. O28, O7, O13, O54, O56: the input requests, the registers, the branch condition, and reset. -/

namespace Sys2Proof.Machine

open Sys2Proof.Claims

/-- A blocking read waits over every pause (10_state.md R32). -/
theorem inRead_pauses (k : Nat) (es : List InEvent) : inRead (List.replicate k .pause ++ es) = inRead es := by
  induction k with
  | zero => rfl
  | succ k ih => exact ih

/-- Settles O28: a poll looks at the first event only; a blocking read at the first that is no pause. -/
theorem inputRequestsTakeBytesInOrder : Obligations.InputRequestsTakeBytesInOrder := by
  intro k b rest
  have hnone : inRead (List.replicate k .pause) = .waiting [] := by
    rw [← List.append_nil (List.replicate k _), inRead_pauses]
    rfl
  exact ⟨rfl, rfl, rfl, rfl, inRead_pauses k _, hnone, inRead_pauses k _, rfl, inRead_pauses k _⟩

theorem reset_reg (r : Reg) : State.reset.reg r = 0#16 := by
  simp [State.reg, State.reset]

/-- Settles O7. -/
theorem registersHoldTheLatestWrite : Obligations.RegistersHoldTheLatestWrite := by
  refine ⟨fun s r v => ⟨State.reg_setReg_same s r v, fun q hq => ?_⟩, reset_reg⟩
  exact State.reg_setReg_other s r q v fun e => hq (e ▸ List.mem_singleton_self r)

/-- Settles O13: for each value of COND, the eight condition fields. -/
theorem branchConditionAgreesWithTheOneHotCodes : Obligations.BranchConditionAgreesWithTheOneHotCodes := by
  intro n z p c
  cases c with
  | negative | zero | positive => revert n z p; decide

/-- Settles O54: memory is empty, no step is unfinished, and the machine is RUNNING. -/
theorem resetMeetsTheInvariant : Obligations.ResetMeetsTheInvariant := by
  refine ⟨Memory.wf_reset, fun hwait => absurd rfl hwait, ?_⟩
  rintro (hwait | hrun)
  · exact absurd rfl hwait
  · exact absurd rfl hrun

/-- Settles O56. -/
theorem resetValues : Obligations.ResetValues :=
  ⟨reset_reg, rfl, rfl, rfl, fun _ => rfl, rfl⟩

end Sys2Proof.Machine
end

section
/-! PROOF. O19, O17, O18: `MemWrite`, and `MemRead` with its poll, as 20_memory.md R44 to R47 word them. -/

namespace Sys2Proof.Machine

open Sys2Proof.Claims

/-- Settles O19: at every address, the keyboard cells among them. -/
theorem memoryWriteReplacesOneCell : Obligations.MemoryWriteReplacesOneCell := by
  intro a v s
  exact ⟨State.cell_memWrite_same s a v, fun b hb => State.cell_memWrite_other s a b v hb, fun _ => rfl, rfl, rfl,
    ⟨rfl, rfl⟩, rfl, rfl, rfl, rfl, rfl⟩

/-- Raising a cause is the stop of 60_exceptions.md R181. -/
theorem stopsWith_raise (cause : Cause) (info : Word) (s : State) : StopsWith cause info s (s.raise cause info) :=
  ⟨rfl, fun _ => rfl, rfl, rfl, fun _ => rfl, ⟨rfl, rfl⟩, rfl, rfl, rfl, rfl⟩

/-! ### The three answers of a read of KBSR (R45) -/

theorem memRead_kbsr_byte {s : State} {b : Byte} {rest : List InEvent} (h : inPoll s.input = .byte b rest) :
    ∃ u, memRead config.kbsrAddr s = .ok 0x8000#16 u ∧ Polled 0x8000#16 (some b) rest s u := by
  rw [memRead_kbsr, h]
  refine ⟨_, rfl, ?_, State.cell_memWrite_same _ _ _, fun a hkbsr hkbdr => ?_, rfl, rfl, fun _ => rfl, rfl, rfl,
    rfl, rfl, rfl, rfl, rfl⟩
  · rw [State.cell_memWrite_other _ _ _ _ kbsr_ne_kbdr, State.cell_memWrite_same]
  · rw [State.cell_memWrite_other _ _ _ _ hkbdr, State.cell_memWrite_other _ _ _ _ hkbsr, State.setInput_cell]

theorem memRead_kbsr_none {s : State} {rest : List InEvent} (h : inPoll s.input = .none rest) :
    ∃ u, memRead config.kbsrAddr s = .ok 0x0000#16 u ∧ Polled 0x0000#16 none rest s u := by
  rw [memRead_kbsr, h]
  exact ⟨_, rfl, State.cell_memWrite_same _ _ _, State.cell_memWrite_other _ _ _ _ kbsr_ne_kbdr.symm,
    fun a hkbsr _ => State.cell_memWrite_other _ _ _ _ hkbsr, rfl, rfl, fun _ => rfl, rfl, rfl, rfl, rfl, rfl, rfl, rfl⟩

theorem memRead_of_readFails {a : Word} {s : State} (h : ReadFails a s) :
    memRead a s = .stop (s.raise .inputError config.kbsrAddr) := by
  obtain ⟨rfl, hpoll⟩ := h
  rw [memRead_kbsr, hpoll]

theorem memRead_readsAs {a : Word} {s : State} (h : ¬ ReadFails a s) :
    ∃ v u, memRead a s = .ok v u ∧ ReadsAs a v s u := by
  by_cases ha : a = config.kbsrAddr
  · subst ha
    cases hpoll : inPoll s.input with
    | byte b rest =>
      obtain ⟨u, hread, hpolled⟩ := memRead_kbsr_byte hpoll
      exact ⟨_, u, hread, .inr (.inl ⟨rfl, b, rest, hpoll, rfl, hpolled⟩)⟩
    | none rest =>
      obtain ⟨u, hread, hpolled⟩ := memRead_kbsr_none hpoll
      exact ⟨_, u, hread, .inr (.inr ⟨rfl, rest, hpoll, rfl, hpolled⟩)⟩
    | error => exact absurd ⟨rfl, hpoll⟩ h
  · exact ⟨_, s, memRead_ordinary a s ha, .inl ⟨ha, rfl, rfl⟩⟩

/-- Settles O17. -/
theorem memoryReadPollsOnlyAtKeyboardStatus : Obligations.MemoryReadPollsOnlyAtKeyboardStatus := by
  intro a s
  exact ⟨memRead_readsAs, fun h => ⟨_, memRead_of_readFails h, stopsWith_raise _ _ s⟩⟩

/-- Settles O18: the second read polls the channel the first one left. -/
theorem readyBitIsNotLatched : Obligations.ReadyBitIsNotLatched := by
  intro s b c rest
  refine ⟨fun hin => ?_, fun hin => ?_⟩
  · obtain ⟨u, hread, -, hbyte, -, hleft, -⟩ := memRead_kbsr_byte (s := s) (b := b) (rest := []) (by rw [hin]; rfl)
    obtain ⟨t, hread', -, hkept, -⟩ := memRead_kbsr_none (s := u) (rest := []) (by rw [hleft]; rfl)
    have hkbdr : t.cell config.kbdrAddr = b.setWidth 16 := hkept.trans hbyte
    exact ⟨u, t, hread, hread', hkbdr, hkbdr ▸ memRead_ordinary _ t kbsr_ne_kbdr.symm⟩
  · obtain ⟨u, hread, -, -, -, hleft, -⟩ :=
      memRead_kbsr_byte (s := s) (b := b) (rest := .byte c :: rest) (by rw [hin]; rfl)
    obtain ⟨t, hread', -, hbyte, -, hleft', -⟩ := memRead_kbsr_byte (s := u) (b := c) (rest := rest) (by rw [hleft]; rfl)
    exact ⟨u, t, hread, hread', hbyte, hleft'⟩

end Sys2Proof.Machine
end

section
/-! PROOF. O20: the canonical form of memory. Its entries are the cells that read other than the unlisted value, so reads
fix which entries there are, and the rising addresses fix their order. -/

namespace Sys2Proof.Machine

/-- An address with no entry reads the unlisted value. -/
theorem Memory.read_of_not_mem {m : Memory} {a : Nat} (h : ∀ c ∈ m, c.1 ≠ a) : Memory.read m a = Memory.unlisted := by
  induction m with
  | nil => rfl
  | cons c m ih =>
    rw [List.forall_mem_cons] at h
    rw [Memory.read, if_neg h.1, ih h.2]

theorem Memory.read_of_mem {m : Memory} {c : Cell} (hp : m.Pairwise (fun c d => c.1 < d.1)) (hc : c ∈ m) :
    Memory.read m c.1 = c.2 := by
  induction m with
  | nil => cases hc
  | cons d m ih =>
    rw [List.pairwise_cons] at hp
    rcases List.mem_cons.mp hc with rfl | hc
    · rw [Memory.read, if_pos rfl]
    · rw [Memory.read, if_neg (hp.1 c hc).ne, ih hp.2 hc]

theorem Memory.mem_of_read_ne_unlisted {m : Memory} {a : Nat} (h : Memory.read m a ≠ Memory.unlisted) :
    (a, Memory.read m a) ∈ m := by
  induction m with
  | nil => exact absurd rfl h
  | cons c m ih =>
    by_cases hc : c.1 = a
    · subst hc
      simp [Memory.read]
    · rw [Memory.read, if_neg hc] at h ⊢
      exact List.mem_cons_of_mem c (ih h)

theorem Memory.mem_iff_read {m : Memory} (hm : Memory.wf m) (a : Nat) (v : Word) :
    (a, v) ∈ m ↔ Memory.read m a = v ∧ v ≠ Memory.unlisted := by
  refine ⟨fun h => ⟨Memory.read_of_mem hm.1 h, (hm.2 _ h).2⟩, ?_⟩
  rintro ⟨rfl, hne⟩
  exact Memory.mem_of_read_ne_unlisted hne

/-- No cell is listed above the 65536 addresses. -/
theorem Memory.read_of_le {m : Memory} (hm : Memory.wf m) {a : Nat} (ha : 65536 ≤ a) :
    Memory.read m a = Memory.unlisted :=
  Memory.read_of_not_mem fun c hc => ((hm.2 c hc).1.trans_le ha).ne

/-- Lists of rising addresses with the same entries are equal. -/
theorem Memory.eq_of_mem_iff {m m' : Memory} (hm : Memory.wf m) (hm' : Memory.wf m') (h : ∀ c, c ∈ m ↔ c ∈ m') :
    m = m' := by
  have : Std.Irrefl (fun c d : Cell => c.1 < d.1) := ⟨fun c => lt_irrefl c.1⟩
  have : Std.Antisymm (fun c d : Cell => c.1 < d.1) := ⟨fun _ _ hcd hdc => absurd hdc hcd.asymm⟩
  exact hm.1.eq_of_mem_iff hm'.1 h

/-- Settles O20: the two lists have the same entries. -/
theorem canonicalMemoriesThatReadAlikeAreEqual : Obligations.CanonicalMemoriesThatReadAlikeAreEqual := by
  intro m m' hm hm' halike
  have hread : ∀ a : Nat, Memory.read m a = Memory.read m' a := by
    intro a
    by_cases ha : a < 65536
    · simpa [Nat.mod_eq_of_lt ha] using halike (BitVec.ofNat 16 a)
    · rw [Memory.read_of_le hm (not_lt.mp ha), Memory.read_of_le hm' (not_lt.mp ha)]
  refine Memory.eq_of_mem_iff hm hm' fun ⟨a, v⟩ => ?_
  rw [Memory.mem_iff_read hm, Memory.mem_iff_read hm', hread]

end Sys2Proof.Machine
end

section
/-! PROOF. O50, O27, O46: which cells an instruction writes (20_memory.md R42, R45), the fetch of a word just stored (R59),
and that no step is refused (R61). -/

namespace Sys2Proof.Machine

open Sys2Proof.Claims

/-! ### The cells an instruction writes -/

theorem State.cell_of_mem_eq {s t : State} (h : t.mem = s.mem) (a : Word) : t.cell a = s.cell a :=
  congrArg (Memory.read · a.toNat) h

/-- An instruction that reads no memory writes the cell it stores to and no other. -/
theorem exec_cell_of_not_readsMemory {i : Instr} {s t : State} (h : exec i s = .next t) (hi : readsMemory i = false)
    {a : Word} (ha : a ∉ storesTo i s) : t.cell a = s.cell a := by
  cases i with
  | ld | ldi | ldr | sti | puts | putsp => cases hi
  | st | str =>
    cases h
    exact State.cell_memWrite_other _ _ _ _ fun e => ha (List.mem_singleton.mpr e)
  | getc =>
    cases h
    exact State.cell_of_mem_eq (getcRead_blockingRead s.link).mem a
  | inChar =>
    cases h
    exact State.cell_of_mem_eq (inCharRead_blockingRead ((s.link.outBytes config.inPrompt).outFlush)).mem a
  | br | halt =>
    cases h
    split <;> rfl
  | _ => cases h; rfl

/-- A memory read followed by what leaves cell `a` alone: only the poll can have written it, and it is no keyboard cell. -/
theorem cell_after_memRead {b : Word} (s : State) {k : Word → State → State} {a : Word} (hkbsr : a ≠ config.kbsrAddr)
    (hkbdr : a ≠ config.kbdrAddr) (hk : ∀ v t, memRead b s = .ok v t → (k v t).cell a = t.cell a) :
    ((memRead b s).after k).cell a = s.cell a := by
  cases hread : memRead b s with
  | ok v t => exact (hk v t hread).trans ((memRead_ok hread).1.cell a hkbsr hkbdr)
  | stop t => exact (ReadFrame.of_stop hread).cell a hkbsr hkbdr

/-- The address STI stores to is the pointer it reads. -/
theorem mem_storesTo_sti {sr : Reg} {off9 : BitVec 9} {s t : State} {ea : Word}
    (h : memRead (s.pcRel off9) s = .ok ea t) : ea ∈ storesTo (.sti sr off9) s := by
  simp [storesTo, h]

/-- An instruction that reads memory may write the keyboard cells beside the cell it stores to. -/
theorem exec_cell_of_readsMemory {i : Instr} {s t : State} (h : exec i s = .next t) (hi : readsMemory i = true)
    {a : Word} (ha : a ∉ storesTo i s) (hkbsr : a ≠ config.kbsrAddr) (hkbdr : a ≠ config.kbdrAddr) :
    t.cell a = s.cell a := by
  cases i with
  | ld | ldr =>
    cases h
    exact cell_after_memRead s hkbsr hkbdr fun _ _ _ => rfl
  | ldi =>
    cases h
    exact cell_after_memRead s hkbsr hkbdr fun _ t _ => cell_after_memRead t hkbsr hkbdr fun _ _ _ => rfl
  | sti sr off9 =>
    cases h
    exact cell_after_memRead s hkbsr hkbdr fun ea t hread =>
      State.cell_memWrite_other t ea a _ fun e => ha (e ▸ mem_storesTo_sti hread)
  | puts =>
    cases h
    exact (putsLoop_frame scanPass _ s.link).1.cell a hkbsr hkbdr
  | putsp =>
    cases h
    exact (putspLoop_frame scanPass _ s.link).1.cell a hkbsr hkbdr
  | _ => cases hi

/-- Settles O50: by whether the instruction reads memory. -/
theorem memoryIsWrittenOnlyByStoresAndPolls : Obligations.MemoryIsWrittenOnlyByStoresAndPolls := by
  intro i s t h a ha
  refine ⟨fun hkbsr hkbdr => ?_, fun hi => exec_cell_of_not_readsMemory h hi ha⟩
  cases hi : readsMemory i with
  | true => exact exec_cell_of_readsMemory h hi ha hkbsr hkbdr
  | false => exact exec_cell_of_not_readsMemory h hi ha

/-! ### A store and the next fetch -/

theorem State.pcRel_zero (s : State) : s.pcRel (0 : BitVec 9) = s.pc := by
  have hsext : sext (0 : BitVec 9) = 0#16 := by decide
  rw [State.pcRel, hsext, BitVec.add_zero]

/-- Settles O27: the ST writes the cell at PC, which the fetch reads without a poll. -/
theorem storedWordIsFetchedNext : Obligations.StoredWordIsFetchedNext := by
  intro sr s hrun hwait hpc
  have hexec : exec (.st sr 0) s = .next (s.memWrite s.pc (s.reg sr)) :=
    congrArg (fun a => Host.Outcome.next (s.memWrite a (s.reg sr))) s.pcRel_zero
  have hfetch := fetch_ordinary (s.memWrite s.pc (s.reg sr)) hpc
  rw [State.memWrite_pc, State.cell_memWrite_same] at hfetch
  exact ⟨_, hexec, step_fetch_ok hrun hwait hfetch⟩

/-! ### Every step answers -/

theorem exec_answers (i : Instr) (s : State) : ∃ t, exec i s = .next t := by
  cases i with
  | _ => exact ⟨_, rfl⟩

/-- Settles O46: HALTED, an unfinished step, a failed fetch, or the execute phase of the fetched word. -/
theorem everyStepAnswersANextState : Obligations.EveryStepAnswersANextState := by
  intro s
  cases hrun : s.run with
  | halted c info => exact ⟨s, step_halted hrun⟩
  | running =>
    cases hwait : s.wait with
    | some u => exact ⟨_, step_resume hrun hwait⟩
    | none =>
      cases hfetch : fetch s with
      | stop v => exact ⟨v, step_fetch_stop hrun hwait hfetch⟩
      | ok w v =>
        obtain ⟨t, hexec⟩ := exec_answers (decode w) v
        exact ⟨t, (step_fetch_ok hrun hwait hfetch).trans hexec⟩

end Sys2Proof.Machine
end

section
/-! PROOF. O58, O57, O59: the load port (20_memory.md R62 to R65) and the image format (R63). -/

namespace Sys2Proof.Machine

open Sys2Proof.Claims

/-! ### The load port -/

section

variable {s u : State} {origin : Word} {words : List Word}

theorem State.load_of_open (hopen : s.LoadOpen) (hfit : origin.toNat + words.length ≤ 65536) :
    ∃ u, s.load origin words = .ready u :=
  ⟨_, State.load_ready.mpr ⟨hopen, hfit, rfl⟩⟩

/-- An image that would pass address 65535 is refused at an open port (R64). -/
theorem State.load_tooLarge (hopen : s.LoadOpen) (hlarge : 65536 < origin.toNat + words.length) :
    s.load origin words = .refused .tooLarge := by
  rw [State.load, if_pos hopen, if_neg (not_le.mpr hlarge)]

/-- A cell after an accepted load: the word of the image at its place, the old content elsewhere (R62). -/
theorem State.load_ready_cell (h : s.load origin words = .ready u) (a : Word) :
    u.cell a = if h : origin.toNat ≤ a.toNat ∧ a.toNat < origin.toNat + words.length
      then words[a.toNat - origin.toNat]'(by omega) else s.cell a := by
  obtain ⟨-, -, rfl⟩ := State.load_ready.mp h
  exact Memory.read_load s.mem origin.toNat words a.toNat

theorem State.load_ready_cell_image (h : s.load origin words = .ready u) (k : Nat) (hk : k < words.length) :
    u.cell (origin + BitVec.ofNat 16 k) = words[k] := by
  obtain ⟨-, hfit, -⟩ := State.load_ready.mp h
  have haddr : (origin + BitVec.ofNat 16 k).toNat = origin.toNat + k := by
    rw [BitVec.toNat_add, BitVec.toNat_ofNat]
    omega
  rw [State.load_ready_cell h, dif_pos (by omega)]
  simp only [haddr, Nat.add_sub_cancel_left]

theorem State.load_ready_cell_outside (h : s.load origin words = .ready u) (a : Word)
    (ha : a.toNat < origin.toNat ∨ origin.toNat + words.length ≤ a.toNat) : u.cell a = s.cell a := by
  rw [State.load_ready_cell h, dif_neg (by omega)]

/-- An accepted load changes nothing but memory and the mark that closes the port. -/
theorem State.load_ready_frame (h : s.load origin words = .ready u) :
    SameRegs s u ∧ u.pc = s.pc ∧ u.cond = s.cond ∧ SameChannels s u ∧ u.run = s.run ∧ u.wait = s.wait ∧ u.ir = s.ir ∧
      u.steps = s.steps ∧ u.loaded = true := by
  obtain ⟨-, -, rfl⟩ := State.load_ready.mp h
  exact ⟨fun _ => rfl, rfl, rfl, ⟨rfl, rfl⟩, rfl, rfl, rfl, rfl, rfl⟩

theorem State.load_ready_wf (h : s.load origin words = .ready u) (hwf : Memory.wf s.mem) : Memory.wf u.mem := by
  obtain ⟨-, hfit, rfl⟩ := State.load_ready.mp h
  exact Memory.wf_load s.mem origin.toNat words hwf hfit

theorem State.load_closed_of_loaded (h : s.loaded = true) (origin : Word) (words : List Word) :
    s.load origin words = .refused .portClosed :=
  State.load_closed (fun ⟨_, _, _, hloaded⟩ => by simp [h] at hloaded) origin words

theorem State.load_closed_of_steps (h : s.steps ≠ 0) (origin : Word) (words : List Word) :
    s.load origin words = .refused .portClosed :=
  State.load_closed (fun ⟨_, _, hsteps, _⟩ => h hsteps) origin words

end

/-- After any step a step has begun: this one counts, or the invariant says that an earlier one did. -/
theorem step_steps_ne_zero {s t : State} (hinv : s.Inv) (h : step s = .next t) : t.steps ≠ 0 := by
  obtain ⟨-, -, hbegun⟩ := hinv
  rw [(step_counts h).1]
  split
  · exact Nat.succ_ne_zero _
  · next hmid =>
    refine hbegun ?_
    by_cases hwait : s.wait = none
    · exact .inr fun hrun => hmid ⟨hrun, hwait⟩
    · exact .inl hwait

/-- Settles O58. -/
theorem loadPortOpensOnceBeforeTheFirstStep : Obligations.LoadPortOpensOnceBeforeTheFirstStep := by
  intro s t origin words
  refine ⟨fun hrun hwait hsteps hloaded hfit => ?_, fun hclosed => ?_, fun hinv hstep => ?_⟩
  · obtain ⟨u, hload⟩ := State.load_of_open ⟨hrun, hwait, hsteps, hloaded⟩ hfit
    obtain ⟨hregs, hpc, hcond, hchannels, hrun', hwait', hir, hsteps', hloaded'⟩ := State.load_ready_frame hload
    exact ⟨u, hload, State.load_ready_cell_image hload, State.load_ready_cell_outside hload, hregs, hpc, hcond,
      hchannels, hrun'.trans hrun, hwait'.trans hwait, hir, hsteps'.trans hsteps,
      State.load_closed_of_loaded hloaded'⟩
  · refine State.load_closed ?_ origin words
    rintro ⟨hrun, hwait, hsteps, hloaded⟩
    simp [hrun, hwait, hsteps, hloaded] at hclosed
  · exact State.load_closed_of_steps (step_steps_ne_zero hinv hstep) origin words

/-! ### The image format -/

theorem bigEndian_bytes (w : Word) : bigEndian (highByte w) (lowByte w) = w := by
  apply BitVec.eq_of_getLsbD_eq
  intro k hk
  simp only [bigEndian, highByte, lowByte, BitVec.getLsbD_append, BitVec.getLsbD_extractLsb', Nat.zero_add]
  by_cases hlow : k < 8
  · simp [hlow]
  · simp [hlow, show k - 8 < 8 by omega, show 8 + (k - 8) = k by omega]

theorem imageWords_wordBytes (w : Word) (bs : List Byte) :
    imageWords (wordBytes w ++ bs) = (w :: (imageWords bs).1, (imageWords bs).2) := by
  simp only [wordBytes, List.cons_append, List.nil_append, imageWords, bigEndian_bytes]

/-- The words of an image are read back, whatever bytes follow it. -/
theorem imageWords_flatMap (ws : List Word) (bs : List Byte) :
    imageWords (ws.flatMap wordBytes ++ bs) = (ws ++ (imageWords bs).1, (imageWords bs).2) := by
  induction ws with
  | nil => rfl
  | cons w ws ih => rw [List.flatMap_cons, List.append_assoc, imageWords_wordBytes, ih]; rfl

theorem imageWords_imageOf (origin : Word) (words : List Word) :
    imageWords (imageOf origin words) = (origin :: words, false) := by
  have h := imageWords_flatMap (origin :: words) []
  rwa [List.append_nil, imageWords, List.append_nil] at h

theorem imageWords_imageOf_odd (origin : Word) (words : List Word) (b : Byte) :
    imageWords (imageOf origin words ++ [b]) = (origin :: words, true) := by
  have h := imageWords_flatMap (origin :: words) [b]
  rwa [imageWords, List.append_nil] at h

section

variable {image : List Byte} {origin : Word} {words : List Word} {odd : Bool}

/-- A launch whose load is accepted is refused for an odd byte left over, and for nothing else. -/
theorem launch_of_load_ready {s : State} (himage : imageWords image = (origin :: words, odd))
    (hload : State.reset.load origin words = .ready s) :
    launch image = if odd then .refused .shortRead else .ready s := by
  simp only [launch, himage, hload]

/-- A launch whose load is refused is refused for that reason, before the stream's length is looked at. -/
theorem launch_of_load_refused {e : LoadError} (himage : imageWords image = (origin :: words, odd))
    (hload : State.reset.load origin words = .refused e) : launch image = .refused e := by
  simp only [launch, himage, hload]

end

theorem reset_loadOpen : State.reset.LoadOpen := ⟨rfl, rfl, rfl, rfl⟩

/-- Settles O57: the launch is the load of the image's words into the machine after reset. -/
theorem loadPlacesTheImageWords : Obligations.LoadPlacesTheImageWords := by
  intro origin words hfit
  obtain ⟨s, hload⟩ := State.load_of_open reset_loadOpen hfit
  obtain ⟨hregs, hpc, hcond, hchannels, hrun, hwait, hir, hsteps, -⟩ := State.load_ready_frame hload
  exact ⟨s, launch_of_load_ready (imageWords_imageOf origin words) hload, State.load_ready_cell_image hload,
    State.load_ready_cell_outside hload, hregs, hpc, hcond, hchannels, hrun, hwait, hir, hsteps,
    State.load_ready_wf hload Memory.wf_reset⟩

/-- Settles O59. -/
theorem badImagesAreRefused : Obligations.BadImagesAreRefused := by
  refine ⟨fun origin words hlarge => ?_, fun origin words b hfit => ?_, rfl, fun _ => rfl⟩
  · exact launch_of_load_refused (imageWords_imageOf origin words) (State.load_tooLarge reset_loadOpen hlarge)
  · obtain ⟨s, hload⟩ := State.load_of_open reset_loadOpen hfit
    exact launch_of_load_ready (imageWords_imageOf_odd origin words b) hload

end Sys2Proof.Machine
end

section
/-! PROOF. The encoding's family (30_encoding.md), its common layer: the two parameter maps and their inverses (R72, R88),
what `decode` makes of each tag (40_instruction_cycle.md R104), and the tag of every encoded word and decoded term. -/

namespace Sys2Proof

open Laws

/-! ### The parameters of the encoding: form bits, opcode and vector numbers -/

theorem config_immBit : config.immBit = true := rfl

theorem config_offsetBit : config.offsetBit = true := rfl

theorem opMap_opCode (t : Tag) : config.opMap (config.opCode t) = t := by
  cases t <;> rfl

theorem opCode_opMap (op : BitVec 4) : config.opCode (config.opMap op) = op := by
  decide +revert

theorem trapMap_trapVector (s : Service) : config.trapMap (config.trapVector s) = some s := by
  cases s <;> rfl

theorem trapVector_of_trapMap {v : BitVec 8} {s : Service} (h : config.trapMap v = some s) : config.trapVector s = v := by
  decide +revert

theorem trapMap_eq_none_iff (v : BitVec 8) : config.trapMap v = none ↔ v.toNat < 0x20 ∨ 0x25 < v.toNat := by
  decide +revert

theorem eq_ofNat_of_toNat {n k : Nat} {v : BitVec n} (h : v.toNat = k) : v = BitVec.ofNat n k := by
  rw [← h, BitVec.ofNat_toNat, BitVec.setWidth_eq]

/-- The tag of a word with opcode number `k`. -/
theorem tagOf_of_opcode {w : Word} {k : Nat} (h : (field w 12 4).toNat = k) :
    tagOf w = config.opMap (BitVec.ofNat 4 k) :=
  congrArg config.opMap (eq_ofNat_of_toNat h)

/-- The service of vector number `k`. -/
theorem trapMap_of_toNat {v : BitVec 8} {k : Nat} (h : v.toNat = k) :
    config.trapMap v = config.trapMap (BitVec.ofNat 8 k) :=
  congrArg config.trapMap (eq_ofNat_of_toNat h)

theorem opcode_of_tagOf {w : Word} {t : Tag} (h : tagOf w = t) : field w 12 4 = config.opCode t := by
  rw [← h, tagOf, opCode_opMap]

/-! ### What `decode` makes of each tag -/

/-- The instruction of a service. -/
def Service.instr : Service → Instr
  | .getc => .getc
  | .out => .out
  | .puts => .puts
  | .inChar => .inChar
  | .putsp => .putsp
  | .halt => .halt

theorem decodeTrap_service {v : BitVec 8} {s : Service} (h : config.trapMap v = some s) : decodeTrap v = s.instr := by
  cases s <;> simp only [decodeTrap, h, Service.instr]

theorem decodeTrap_unknown {v : BitVec 8} (h : config.trapMap v = none) : decodeTrap v = .trap v := by
  simp only [decodeTrap, h]

section

variable {w : Word}

theorem decode_br (h : tagOf w = .br) :
    decode w = .br (w.getLsbD 11) (w.getLsbD 10) (w.getLsbD 9) (field w 0 9) := by
  rw [decode, h]

theorem decode_add (h : tagOf w = .add) :
    decode w = if w.getLsbD 5 then .addImm (field w 9 3) (field w 6 3) (field w 0 5)
      else .addReg (field w 9 3) (field w 6 3) (field w 0 3) := by
  rw [decode, h]
  rfl

theorem decode_ld (h : tagOf w = .ld) : decode w = .ld (field w 9 3) (field w 0 9) := by
  rw [decode, h]

theorem decode_st (h : tagOf w = .st) : decode w = .st (field w 9 3) (field w 0 9) := by
  rw [decode, h]

theorem decode_jsr (h : tagOf w = .jsr) :
    decode w = if w.getLsbD 11 then .jsr (field w 0 11) else .jsrr (field w 6 3) := by
  rw [decode, h]
  rfl

theorem decode_and (h : tagOf w = .and) :
    decode w = if w.getLsbD 5 then .andImm (field w 9 3) (field w 6 3) (field w 0 5)
      else .andReg (field w 9 3) (field w 6 3) (field w 0 3) := by
  rw [decode, h]
  rfl

theorem decode_ldr (h : tagOf w = .ldr) : decode w = .ldr (field w 9 3) (field w 6 3) (field w 0 6) := by
  rw [decode, h]

theorem decode_str (h : tagOf w = .str) : decode w = .str (field w 9 3) (field w 6 3) (field w 0 6) := by
  rw [decode, h]

theorem decode_rti (h : tagOf w = .rti) : decode w = .rti := by
  rw [decode, h]

theorem decode_not (h : tagOf w = .not) : decode w = .not (field w 9 3) (field w 6 3) := by
  rw [decode, h]

theorem decode_ldi (h : tagOf w = .ldi) : decode w = .ldi (field w 9 3) (field w 0 9) := by
  rw [decode, h]

theorem decode_sti (h : tagOf w = .sti) : decode w = .sti (field w 9 3) (field w 0 9) := by
  rw [decode, h]

theorem decode_jmp (h : tagOf w = .jmp) : decode w = if field w 6 3 = 7#3 then .ret else .jmp (field w 6 3) := by
  rw [decode, h]

theorem decode_res (h : tagOf w = .res) : decode w = .res := by
  rw [decode, h]

theorem decode_lea (h : tagOf w = .lea) : decode w = .lea (field w 9 3) (field w 0 9) := by
  rw [decode, h]

theorem decode_trap (h : tagOf w = .trap) : decode w = decodeTrap (field w 0 8) := by
  rw [decode, h]

theorem decode_trap_service {s : Service} (h : tagOf w = .trap) (hv : config.trapMap (field w 0 8) = some s) :
    decode w = s.instr := by
  rw [decode_trap h, decodeTrap_service hv]

theorem decode_trap_unknown (h : tagOf w = .trap) (hv : config.trapMap (field w 0 8) = none) :
    decode w = .trap (field w 0 8) := by
  rw [decode_trap h, decodeTrap_unknown hv]

end

/-! ### Tags -/

/-- Bits 15:12 of every encoded word, from the per-constructor laws. -/
theorem opcode_encode (i : Instr) : field (encode i) 12 4 = config.opCode i.tag :=
  match i with
  | .addReg dr sr1 sr2 => OpcodeField.addReg dr sr1 sr2
  | .addImm dr sr1 imm5 => OpcodeField.addImm dr sr1 imm5
  | .andReg dr sr1 sr2 => OpcodeField.andReg dr sr1 sr2
  | .andImm dr sr1 imm5 => OpcodeField.andImm dr sr1 imm5
  | .not dr sr => OpcodeField.not dr sr
  | .br n z p off9 => OpcodeField.br n z p off9
  | .jmp baseR => OpcodeField.jmp baseR
  | .ret => OpcodeField.ret
  | .jsr off11 => OpcodeField.jsr off11
  | .jsrr baseR => OpcodeField.jsrr baseR
  | .ld dr off9 => OpcodeField.ld dr off9
  | .ldi dr off9 => OpcodeField.ldi dr off9
  | .ldr dr baseR off6 => OpcodeField.ldr dr baseR off6
  | .lea dr off9 => OpcodeField.lea dr off9
  | .st sr off9 => OpcodeField.st sr off9
  | .sti sr off9 => OpcodeField.sti sr off9
  | .str sr baseR off6 => OpcodeField.str sr baseR off6
  | .getc => OpcodeField.getc
  | .out => OpcodeField.out
  | .puts => OpcodeField.puts
  | .inChar => OpcodeField.inChar
  | .putsp => OpcodeField.putsp
  | .halt => OpcodeField.halt
  | .trap vect8 => OpcodeField.trap vect8
  | .rti => OpcodeField.rti
  | .res => OpcodeField.res

theorem tagOf_encode (i : Instr) : tagOf (encode i) = i.tag := by
  rw [tagOf, opcode_encode, opMap_opCode]

@[simp] theorem Service.tag_instr (s : Service) : s.instr.tag = .trap := by
  cases s <;> rfl

theorem tag_decodeTrap (v : BitVec 8) : (decodeTrap v).tag = .trap := by
  cases hv : config.trapMap v with
  | none => rw [decodeTrap_unknown hv]; rfl
  | some s => rw [decodeTrap_service hv, Service.tag_instr]

theorem tag_decode (w : Word) : (decode w).tag = tagOf w := by
  cases htag : tagOf w with
  | add => rw [decode_add htag]; split <;> rfl
  | and => rw [decode_and htag]; split <;> rfl
  | jmp => rw [decode_jmp htag]; split <;> rfl
  | jsr => rw [decode_jsr htag]; split <;> rfl
  | trap => rw [decode_trap htag, tag_decodeTrap]
  | _ => rw [decode, htag]; rfl

end Sys2Proof
end

section
/-! PROOF. O2, O3, O5: decode and encode (R96). One half reads each field back where the encoder placed it. The other half
writes a placed field of a word as the word under a mask, so that an encoded word is `w` under the union of its fields'
masks: the ones of that union are the bits R86 does not ignore. -/

namespace Sys2Proof

/-! ### Decoded terms are well formed -/

/-- Well-formedness asks something of the tags JMP and TRAP only. -/
theorem wellFormed_of_tag {i : Instr} (hjmp : i.tag ≠ .jmp) (htrap : i.tag ≠ .trap) : i.WellFormed := by
  cases i with
  | jmp => exact absurd rfl hjmp
  | trap => exact absurd rfl htrap
  | _ => rfl

theorem Service.wellFormed_instr (s : Service) : s.instr.WellFormed := by
  cases s <;> rfl

/-- Settles O3. -/
theorem decodedInstructionsAreWellFormed : Obligations.DecodedInstructionsAreWellFormed := by
  intro w
  by_cases hjmp : tagOf w = .jmp
  · rw [decode_jmp hjmp]
    split
    · rfl
    · next hbase => exact bne_iff_ne.mpr hbase
  by_cases htrap : tagOf w = .trap
  · cases hv : config.trapMap (field w 0 8) with
    | none => rw [decode_trap_unknown htrap hv]; exact Option.isNone_iff_eq_none.mpr hv
    | some s => rw [decode_trap_service htrap hv]; exact s.wellFormed_instr
  · exact wellFormed_of_tag (tag_decode w ▸ hjmp) (tag_decode w ▸ htrap)

/-! ### The fields of the encoded formats -/

theorem getElem_place {n : Nat} (v : BitVec n) (a i : Nat) (h : i < 16) :
    (place v a)[i] = (decide (a ≤ i) && v.getLsbD (i - a)) :=
  getLsbD_place v a i h

theorem encRRR_fields (t : Tag) (dr sr1 sr2 : Reg) :
    field (encRRR t dr sr1 sr2) 9 3 = dr ∧ field (encRRR t dr sr1 sr2) 6 3 = sr1 ∧ (encRRR t dr sr1 sr2)[5] = false ∧
      field (encRRR t dr sr1 sr2) 0 3 = sr2 := by
  simp [encRRR, encOp, field_or, field_place_low, field_place_high, field_place_same, getElem_place, config_immBit]

theorem encRRI_fields (t : Tag) (dr sr1 : Reg) (imm5 : BitVec 5) :
    field (encRRI t dr sr1 imm5) 9 3 = dr ∧ field (encRRI t dr sr1 imm5) 6 3 = sr1 ∧ (encRRI t dr sr1 imm5)[5] = true ∧
      field (encRRI t dr sr1 imm5) 0 5 = imm5 := by
  simp [encRRI, encOp, field_or, field_place_low, field_place_high, field_place_same, getElem_place, config_immBit]

theorem encRO9_fields (t : Tag) (r : Reg) (off9 : BitVec 9) :
    field (encRO9 t r off9) 9 3 = r ∧ field (encRO9 t r off9) 0 9 = off9 := by
  simp [encRO9, encOp, field_or, field_place_low, field_place_high, field_place_same]

theorem encRBO6_fields (t : Tag) (r baseR : Reg) (off6 : BitVec 6) :
    field (encRBO6 t r baseR off6) 9 3 = r ∧ field (encRBO6 t r baseR off6) 6 3 = baseR ∧
      field (encRBO6 t r baseR off6) 0 6 = off6 := by
  simp [encRBO6, encOp, field_or, field_place_low, field_place_high, field_place_same]

theorem encTrap_field (v : BitVec 8) : field (encTrap v) 0 8 = v := by
  simp [encTrap, encOp, field_or, field_place_high, field_place_same]

/-! ### Decode after encode -/

theorem encode_service (s : Service) : encode s.instr = encTrap (config.trapVector s) := by
  cases s <;> rfl

theorem decode_encode_service (s : Service) : decode (encode s.instr) = s.instr := by
  refine decode_trap_service ((tagOf_encode s.instr).trans s.tag_instr) ?_
  rw [encode_service, encTrap_field, trapMap_trapVector]

theorem decode_encode {i : Instr} (hwf : i.WellFormed) : decode (encode i) = i := by
  have htag := tagOf_encode i
  cases i with
  | addReg | addImm => rw [decode_add htag]; simp [encode, encRRR_fields, encRRI_fields]
  | andReg | andImm => rw [decode_and htag]; simp [encode, encRRR_fields, encRRI_fields]
  | not => rw [decode_not htag]; simp [encode, encOp, field_or, field_place_low, field_place_high, field_place_same]
  | br => rw [decode_br htag]; simp [encode, encOp, field_or, field_place_high, field_place_same, getElem_place]
  | jmp baseR =>
    have hbase : baseR ≠ 7#3 := bne_iff_ne.mp hwf
    rw [decode_jmp htag]
    simp [encode, encOp, field_or, field_place_high, field_place_same, hbase]
  | ret => rw [decode_jmp htag]; simp [encode, encOp, field_or, field_place_high, field_place_same]
  | jsr | jsrr =>
    rw [decode_jsr htag]
    simp [encode, encOp, field_or, field_place_high, field_place_same, getElem_place, config_offsetBit]
  | ld => rw [decode_ld htag]; simp [encode, encRO9_fields]
  | ldi => rw [decode_ldi htag]; simp [encode, encRO9_fields]
  | lea => rw [decode_lea htag]; simp [encode, encRO9_fields]
  | st => rw [decode_st htag]; simp [encode, encRO9_fields]
  | sti => rw [decode_sti htag]; simp [encode, encRO9_fields]
  | ldr => rw [decode_ldr htag]; simp [encode, encRBO6_fields]
  | str => rw [decode_str htag]; simp [encode, encRBO6_fields]
  | getc => exact decode_encode_service .getc
  | out => exact decode_encode_service .out
  | puts => exact decode_encode_service .puts
  | inChar => exact decode_encode_service .inChar
  | putsp => exact decode_encode_service .putsp
  | halt => exact decode_encode_service .halt
  | trap v =>
    have hv : config.trapMap v = none := Option.isNone_iff_eq_none.mp hwf
    rw [decode_trap htag, encode, encTrap_field, decodeTrap_unknown hv]
  | rti => exact decode_rti htag
  | res => exact decode_res htag

/-! ### Encode after decode -/

/-- A field of a word, put back where it was, is the word under the field's mask. -/
theorem place_field (w : Word) (lo n : Nat) : place (field w lo n) lo = w &&& place (BitVec.allOnes n) lo := by
  apply BitVec.eq_of_getLsbD_eq
  intro i hi
  rw [getLsbD_place _ _ _ hi, BitVec.getLsbD_and, getLsbD_place _ _ _ hi, field, BitVec.getLsbD_extractLsb',
    BitVec.getLsbD_allOnes]
  by_cases hlo : lo ≤ i
  · simp [hlo, Bool.and_comm]
  · simp [hlo]

theorem place_getLsbD (w : Word) (lo : Nat) :
    place (BitVec.ofBool (w.getLsbD lo)) lo = w &&& place (BitVec.allOnes 1) lo := by
  have hfield : BitVec.ofBool (w.getLsbD lo) = field w lo 1 := by
    ext i hi
    simp [field, show i = 0 by omega]
  rw [hfield, place_field]

section

variable {w : Word} {t : Tag}

theorem encOp_of_tagOf (h : tagOf w = t) : encOp t = w &&& place (BitVec.allOnes 4) 12 := by
  rw [encOp, ← opcode_of_tagOf h, place_field]

theorem encRRR_of_fields (h : tagOf w = t) (hbit : w.getLsbD 5 = false) :
    encRRR t (field w 9 3) (field w 6 3) (field w 0 3) = w &&& 0xFFE7#16 := by
  have hform : (!config.immBit) = w.getLsbD 5 := hbit.symm
  simp only [encRRR, encOp_of_tagOf h, hform, place_getLsbD, place_field, ← BitVec.and_or_distrib_left]
  rfl

theorem encRRI_of_fields (h : tagOf w = t) (hbit : w.getLsbD 5 = true) :
    encRRI t (field w 9 3) (field w 6 3) (field w 0 5) = w := by
  have hform : config.immBit = w.getLsbD 5 := hbit.symm
  simp only [encRRI, encOp_of_tagOf h, hform, place_getLsbD, place_field, ← BitVec.and_or_distrib_left]
  exact BitVec.and_allOnes

theorem encRO9_of_fields (h : tagOf w = t) : encRO9 t (field w 9 3) (field w 0 9) = w := by
  simp only [encRO9, encOp_of_tagOf h, place_field, ← BitVec.and_or_distrib_left]
  exact BitVec.and_allOnes

theorem encRBO6_of_fields (h : tagOf w = t) : encRBO6 t (field w 9 3) (field w 6 3) (field w 0 6) = w := by
  simp only [encRBO6, encOp_of_tagOf h, place_field, ← BitVec.and_or_distrib_left]
  exact BitVec.and_allOnes

theorem encode_jsr_of_field (h : tagOf w = .jsr) (hbit : w.getLsbD 11 = true) : encode (.jsr (field w 0 11)) = w := by
  have hform : config.offsetBit = w.getLsbD 11 := hbit.symm
  simp only [encode, encOp_of_tagOf h, hform, place_getLsbD, place_field, ← BitVec.and_or_distrib_left]
  exact BitVec.and_allOnes

theorem encode_jsrr_of_field (h : tagOf w = .jsr) (hbit : w.getLsbD 11 = false) :
    encode (.jsrr (field w 6 3)) = w &&& 0xF9C0#16 := by
  have hform : (!config.offsetBit) = w.getLsbD 11 := hbit.symm
  simp only [encode, encOp_of_tagOf h, hform, place_getLsbD, place_field, ← BitVec.and_or_distrib_left]
  rfl

theorem encTrap_of_field (h : tagOf w = .trap) : encTrap (field w 0 8) = w &&& 0xF0FF#16 := by
  simp only [encTrap, encOp_of_tagOf h, place_field, ← BitVec.and_or_distrib_left]
  rfl

end

theorem encode_decodeTrap (v : BitVec 8) : encode (decodeTrap v) = encTrap v := by
  cases hv : config.trapMap v with
  | none => rw [decodeTrap_unknown hv, encode]
  | some s => rw [decodeTrap_service hv, encode_service, trapVector_of_trapMap hv]

theorem encode_decode (w : Word) : encode (decode w) = clearIgnored w := by
  cases htag : tagOf w with
  | br =>
    rw [decode_br htag, clearIgnored, htag]
    simp only [encode, encOp_of_tagOf htag, place_getLsbD, place_field, ← BitVec.and_or_distrib_left]
    exact BitVec.and_allOnes
  | add =>
    rw [decode_add htag, clearIgnored, htag]
    cases hbit : w.getLsbD 5
    · exact encRRR_of_fields htag hbit
    · exact encRRI_of_fields htag hbit
  | and =>
    rw [decode_and htag, clearIgnored, htag]
    cases hbit : w.getLsbD 5
    · exact encRRR_of_fields htag hbit
    · exact encRRI_of_fields htag hbit
  | not =>
    rw [decode_not htag, clearIgnored, htag]
    simp only [encode, encOp_of_tagOf htag, place_field, ← BitVec.and_or_distrib_left]
    rfl
  | jsr =>
    rw [decode_jsr htag, clearIgnored, htag]
    cases hbit : w.getLsbD 11
    · exact encode_jsrr_of_field htag hbit
    · exact encode_jsr_of_field htag hbit
  | jmp =>
    have hword : encOp .jmp ||| place (field w 6 3) 6 = w &&& 0xF1C0#16 := by
      simp only [encOp_of_tagOf htag, place_field, ← BitVec.and_or_distrib_left]
      rfl
    rw [decode_jmp htag, clearIgnored, htag]
    split
    · next hbase => rwa [hbase] at hword
    · exact hword
  | ld => rw [decode_ld htag, clearIgnored, htag]; exact encRO9_of_fields htag
  | ldi => rw [decode_ldi htag, clearIgnored, htag]; exact encRO9_of_fields htag
  | lea => rw [decode_lea htag, clearIgnored, htag]; exact encRO9_of_fields htag
  | st => rw [decode_st htag, clearIgnored, htag]; exact encRO9_of_fields htag
  | sti => rw [decode_sti htag, clearIgnored, htag]; exact encRO9_of_fields htag
  | ldr => rw [decode_ldr htag, clearIgnored, htag]; exact encRBO6_of_fields htag
  | str => rw [decode_str htag, clearIgnored, htag]; exact encRBO6_of_fields htag
  | trap => rw [decode_trap htag, clearIgnored, htag, encode_decodeTrap]; exact encTrap_of_field htag
  | rti => rw [decode_rti htag, clearIgnored, htag]; exact encOp_of_tagOf htag
  | res => rw [decode_res htag, clearIgnored, htag]; exact encOp_of_tagOf htag

/-- Settles O2. -/
theorem decodeAndEncodeAgree : Obligations.DecodeAndEncodeAgree :=
  ⟨fun _ => decode_encode, encode_decode⟩

/-- Settles O5: the cleared word is the encoding of what the word decodes to, which is well formed. -/
theorem ignoredBitsDoNotChangeTheInstruction : Obligations.IgnoredBitsDoNotChangeTheInstruction := by
  intro w
  rw [← encode_decode, decode_encode (decodedInstructionsAreWellFormed w)]

end Sys2Proof
end

section
/-! PROOF. O4, O1: the partition of all words (30_encoding.md R91), the decode function by opcode and vector numbers
(40_instruction_cycle.md R104), and words written out from the formats. -/

namespace Sys2Proof

/-! ### The kinds of a decode result, by tag -/

theorem classify_of_tag {i : Instr} (hrti : i.tag ≠ .rti) (hres : i.tag ≠ .res) (htrap : i.tag ≠ .trap) :
    classify i = .instr i := by
  cases i with
  | rti => exact absurd rfl hrti
  | res => exact absurd rfl hres
  | halt | trap => exact absurd rfl htrap
  | _ => rfl

theorem classify_service {s : Service} (h : s ≠ .halt) : classify s.instr = .instr s.instr := by
  cases s with
  | halt => exact absurd rfl h
  | _ => rfl

section

variable {w : Word}

theorem decodeResult_rti (h : tagOf w = .rti) : decodeResult w = .decodeError .reservedOpcode := by
  rw [decodeResult, decode_rti h]
  rfl

theorem decodeResult_res (h : tagOf w = .res) : decodeResult w = .decodeError .reservedOpcode := by
  rw [decodeResult, decode_res h]
  rfl

theorem decodeResult_halt (h : tagOf w = .trap) (hv : config.trapMap (field w 0 8) = some .halt) :
    decodeResult w = .haltSignal := by
  rw [decodeResult, decode_trap_service h hv]
  rfl

theorem decodeResult_unknown (h : tagOf w = .trap) (hv : config.trapMap (field w 0 8) = none) :
    decodeResult w = .decodeError .invalidTrapVector := by
  rw [decodeResult, decode_trap_unknown h hv]
  rfl

theorem decodeResult_service {s : Service} (h : tagOf w = .trap) (hv : config.trapMap (field w 0 8) = some s)
    (hs : s ≠ .halt) : decodeResult w = .instr (decode w) := by
  rw [decodeResult, decode_trap_service h hv, classify_service hs]

/-- Vectors x20 to x24 are the services other than HALT. -/
theorem trapMap_of_range {v : BitVec 8} (h : 0x20 ≤ v.toNat ∧ v.toNat ≤ 0x24) :
    ∃ s, config.trapMap v = some s ∧ s ≠ .halt := by
  cases hv : config.trapMap v with
  | none =>
    have hrange := (trapMap_eq_none_iff v).mp hv
    omega
  | some s =>
    refine ⟨s, rfl, ?_⟩
    rintro rfl
    have hvector : v.toNat = 0x25 := congrArg BitVec.toNat (trapVector_of_trapMap hv).symm
    omega

/-- R91's executed instructions: no reserved opcode, and a TRAP only with a vector of x20 to x24. -/
theorem decodeResult_instr (h8 : (field w 12 4).toNat ≠ 0x8) (hD : (field w 12 4).toNat ≠ 0xD)
    (hF : (field w 12 4).toNat = 0xF → 0x20 ≤ (field w 0 8).toNat ∧ (field w 0 8).toNat ≤ 0x24) :
    decodeResult w = .instr (decode w) := by
  by_cases htrap : (field w 12 4).toNat = 0xF
  · obtain ⟨s, hv, hs⟩ := trapMap_of_range (hF htrap)
    exact decodeResult_service (tagOf_of_opcode htrap) hv hs
  · have hne {t : Tag} (h : (field w 12 4).toNat ≠ (config.opCode t).toNat) : (decode w).tag ≠ t := fun e =>
      h (congrArg BitVec.toNat (opcode_of_tagOf ((tag_decode w).symm.trans e)))
    exact classify_of_tag (hne h8) (hne hD) (hne htrap)

end

/-- Settles O4: the opcode number fixes the tag and the vector number the service; the rest is what `decode` makes of
each. -/
theorem everyWordIsInstructionHaltSignalOrError : Obligations.EveryWordIsInstructionHaltSignalOrError := by
  intro w
  refine ⟨?_, fun h hv => decodeResult_halt (tagOf_of_opcode h) (trapMap_of_toNat hv),
    fun h hv => decodeResult_unknown (tagOf_of_opcode h) ((trapMap_eq_none_iff _).mpr hv),
    decodeResult_instr,
    fun h => decode_br (tagOf_of_opcode h), fun h => decode_add (tagOf_of_opcode h),
    fun h => decode_ld (tagOf_of_opcode h), fun h => decode_st (tagOf_of_opcode h),
    fun h => decode_jsr (tagOf_of_opcode h), fun h => decode_and (tagOf_of_opcode h),
    fun h => decode_ldr (tagOf_of_opcode h), fun h => decode_str (tagOf_of_opcode h),
    fun h => decode_rti (tagOf_of_opcode h), fun h => decode_not (tagOf_of_opcode h),
    fun h => decode_ldi (tagOf_of_opcode h), fun h => decode_sti (tagOf_of_opcode h), fun h => ?_,
    fun h => decode_res (tagOf_of_opcode h), fun h => decode_lea (tagOf_of_opcode h), fun h => ?_⟩
  · rintro (h | h)
    · exact decodeResult_rti (tagOf_of_opcode h)
    · exact decodeResult_res (tagOf_of_opcode h)
  · rw [decode_jmp (tagOf_of_opcode h)]
    simp only [← BitVec.toNat_inj]
    rfl
  · have htag : tagOf w = .trap := tagOf_of_opcode h
    have hservice (s : Service) (hv : (field w 0 8).toNat = (config.trapVector s).toNat) : decode w = s.instr :=
      decode_trap_service htag ((congrArg config.trapMap (BitVec.eq_of_toNat_eq hv)).trans (trapMap_trapVector s))
    exact ⟨hservice .getc, hservice .out, hservice .puts, hservice .inChar, hservice .putsp, hservice .halt,
      fun hv => decode_trap_unknown htag ((trapMap_eq_none_iff _).mpr hv)⟩

/-- Settles O1: closed words, each decoded by evaluation. -/
theorem wordsWrittenOutFromTheFormatsDecode : Obligations.WordsWrittenOutFromTheFormatsDecode := by
  unfold Obligations.WordsWrittenOutFromTheFormatsDecode
  decide

end Sys2Proof
end

section
/-! PROOF. O43: the word of a cell that reset left untouched (30_encoding.md R89). -/

namespace Sys2Proof.Machine

open Sys2Proof.Claims

theorem decode_zero : decode 0#16 = .br false false false 0 := by decide

/-- With no condition bit the BR is taken, and with offset 0 it stays where it is. -/
theorem execBr_zero (s : State) : execBr false false false 0 s = .next s := by
  have htaken : branchTaken false false false s.cond = true := rfl
  rw [execBr, htaken, if_pos rfl, State.pcRel_zero]
  rfl

theorem exec_br (n z p : Bool) (off9 : BitVec 9) (s : State) : exec (.br n z p off9) s = execBr n z p off9 s := rfl

/-- Settles O43: the step ends in the state its fetch leaves. -/
theorem zeroWordOnlyAdvancesPc : Obligations.ZeroWordOnlyAdvancesPc := by
  intro s hrun hwait hpc hword
  have hstep := step_fetch_ok hrun hwait (fetch_ordinary s hpc)
  rw [hword, decode_zero, exec_br, execBr_zero] at hstep
  exact ⟨_, hstep, rfl, fun _ => rfl, rfl, fun _ => rfl, ⟨rfl, rfl⟩, hrun, hwait⟩

end Sys2Proof.Machine
end

section
/-! PROOF. The instruction cycle's family (40_instruction_cycle.md), its common layer: what a fetch leaves (R101), the flags
(R108), what a decode result says of the term (R103), the effective address as the spec writes it, a memory read with what
follows it, and the four services that a step may leave unfinished as the link followed by that unfinished step (R112). -/

namespace Sys2Proof.Machine

open Sys2Proof.Claims

/-! ### The fetch -/

/-- What a fetch that returns the word `w` makes of `s`: PC incremented, the word kept, and what its read may change. -/
structure Fetched (w : Word) (s u : State) : Prop where
  regs : SameRegs s u
  pc : u.pc = s.pc + 1#16
  cond : u.cond = s.cond
  run : u.run = s.run
  wait : u.wait = s.wait
  output : u.output = s.output
  input : u.input <:+ s.input
  wf : Memory.wf s.mem → Memory.wf u.mem
  ir : u.ir = w

theorem fetch_ok_fetched {s u : State} {w : Word} (h : fetch s = .ok w u) : Fetched w s u := by
  obtain ⟨v, hread, rfl⟩ := fetch_ok h
  obtain ⟨hframe, hrun, hout, hwait, -⟩ := memRead_ok hread
  exact
    { regs := hframe.reg
      pc := congrArg (· + 1#16) hframe.pc
      cond := hframe.cond
      run := hrun
      wait := hwait
      output := hout
      input := hframe.input
      wf := hframe.wf
      ir := rfl }

theorem fetch_of_memRead_ok {s u : State} {w : Word} (h : memRead s.pc s.beginStep = .ok w u) :
    fetch s = .ok w ((u.setPc (u.pc + 1#16)).setIr w) := by
  simp only [fetch, h]

theorem fetch_of_readFails {s : State} (h : ReadFails s.pc s) :
    fetch s = .stop (s.beginStep.raise .inputError config.kbsrAddr) := by
  have hread : memRead s.pc s.beginStep = _ := memRead_of_readFails h
  simp only [fetch, hread]

/-! ### The flags -/

/-- The model's sign-bit test picks the ranges of R108. -/
theorem flagOf_condOf (v : Word) : FlagOf v (condOf v) := by
  have hzero : v = 0#16 ↔ v.toNat = 0 := by rw [← BitVec.toNat_inj]; rfl
  have hsign : v.getLsbD 15 = decide (0x8000 ≤ v.toNat) := by
    rw [← BitVec.msb_eq_getLsbD_last (x := v), BitVec.msb_eq_decide]
  simp only [FlagOf, condOf, hzero, hsign, decide_eq_true_eq]
  refine ⟨fun h => if_pos h, fun h => ?_, fun h => ?_⟩
  · rw [if_neg (by omega), if_neg (by omega)]
  · rw [if_neg (by omega), if_pos h]

/-! ### The decode result -/

theorem eq_halt_of_classify {i : Instr} (h : classify i = .haltSignal) : i = .halt := by
  cases i with
  | halt => rfl
  | _ => cases h

theorem eq_reserved_of_classify {i : Instr} (h : classify i = .decodeError .reservedOpcode) : i = .rti ∨ i = .res := by
  cases i with
  | rti => exact .inl rfl
  | res => exact .inr rfl
  | _ => cases h

theorem eq_trap_of_classify {i : Instr} (h : classify i = .decodeError .invalidTrapVector) : ∃ v, i = .trap v := by
  cases i with
  | trap v => exact ⟨v, rfl⟩
  | _ => cases h

/-! ### The effective address -/

theorem add_sext_eq_offset {n : Nat} (a : Word) (off : BitVec n) (hn : n ≤ 16) : a + sext off = offset a off := by
  rw [offset, ← toInt_sext off hn, BitVec.ofInt_add, BitVec.ofInt_toInt, BitVec.ofInt_toInt]

theorem State.pcRel_eq_offset (s : State) (off9 : BitVec 9) : s.pcRel off9 = offset s.pc off9 :=
  add_sext_eq_offset s.pc off9 (by decide)

theorem State.baseOff_eq_offset (s : State) (baseR : Reg) (off6 : BitVec 6) :
    s.baseOff baseR off6 = offset (s.reg baseR) off6 :=
  add_sext_eq_offset (s.reg baseR) off6 (by decide)

/-! ### A memory read with what follows it -/

theorem wf_after_memRead (a : Word) (s : State) {k : Word → State → State} (hwf : Memory.wf s.mem)
    (hk : ∀ v t, Memory.wf t.mem → Memory.wf (k v t).mem) : Memory.wf ((memRead a s).after k).mem := by
  cases h : memRead a s with
  | ok v t => exact hk v t ((memRead_ok h).1.wf hwf)
  | stop t => exact (ReadFrame.of_stop h).wf hwf

theorem wait_after_memRead (a : Word) (s : State) {k : Word → State → State} (hk : ∀ v t, (k v t).wait = t.wait) :
    ((memRead a s).after k).wait = s.wait := by
  cases h : memRead a s with
  | ok v t =>
    obtain ⟨-, -, -, hwait, -⟩ := memRead_ok h
    exact (hk v t).trans hwait
  | stop t =>
    obtain ⟨-, -, rfl⟩ := memRead_stop h
    rfl

/-- An operation that leaves the run state of a RUNNING machine has not stopped it. -/
theorem not_halted_of_run_eq {s t : State} {c : Cause} {info : Word} (hrun : s.run = .running) (hkept : t.run = s.run) :
    t.run ≠ .halted c info := by
  rw [hkept, hrun]
  nofun

/-- When a read and what follows it stop the machine, either the read was a failing poll or what follows it stopped the
machine. -/
theorem after_memRead_halts {a : Word} {s : State} {k : Word → State → State} {c : Cause} {info : Word}
    (hrun : s.run = .running) (h : ((memRead a s).after k).run = .halted c info) :
    (ReadFails a s ∧ c = .inputError ∧ info = config.kbsrAddr) ∨
    (∃ v t, memRead a s = .ok v t ∧ t.run = .running ∧ (k v t).run = .halted c info) := by
  cases hread : memRead a s with
  | ok v t =>
    obtain ⟨-, hrun', -⟩ := memRead_ok hread
    rw [hread] at h
    exact .inr ⟨v, t, rfl, hrun'.trans hrun, h⟩
  | stop t =>
    obtain ⟨ha, hpoll, rfl⟩ := memRead_stop hread
    rw [hread] at h
    cases h
    exact .inl ⟨⟨ha, hpoll⟩, rfl, rfl⟩

/-- When what follows the read leaves the run state, it was the read. -/
theorem readFails_of_after_memRead_halts {a : Word} {s : State} {k : Word → State → State} {c : Cause} {info : Word}
    (hrun : s.run = .running) (h : ((memRead a s).after k).run = .halted c info) (hk : ∀ v t, (k v t).run = t.run) :
    ReadFails a s ∧ c = .inputError ∧ info = config.kbsrAddr := by
  refine (after_memRead_halts hrun h).resolve_right ?_
  rintro ⟨v, t, -, hrun', hhalt⟩
  exact not_halted_of_run_eq hrun' (hk v t) hhalt

/-! ### The services that a step may leave unfinished -/

/-- For GETC, IN, PUTS and PUTSP: what is sent right after the link, and the unfinished step that is then still to do. -/
def serviceStart (i : Instr) (s : State) : Option (List OutEvent × Unfinished) :=
  match i with
  | .getc => some ([], .getc)
  | .inChar => some (config.inPrompt.map .byte ++ [.flush], .inChar)
  | .puts => some ([], .puts (s.reg 0#3))
  | .putsp => some ([], .putsp (s.reg 0#3))
  | _ => none

theorem State.takeUp_of_wait_none {s : State} (h : s.wait = none) : s.takeUp = s := by
  cases s
  cases h
  rfl

theorem State.link_reg_zero (s : State) : s.link.reg 0#3 = s.reg 0#3 := by
  rw [State.reg_link, if_neg (by decide)]

/-- The execute phase of such a service is the link, what is sent at once, and then the unfinished step (44_trap.md R155). -/
theorem exec_of_serviceStart {i : Instr} {s : State} {es : List OutEvent} {u : Unfinished}
    (h : serviceStart i s = some (es, u)) (hwait : s.wait = none) :
    exec i s = .next (resume u (s.link.emit es)) := by
  have htake : (s.link.emit es).takeUp = s.link.emit es := State.takeUp_of_wait_none hwait
  cases i with
  | getc =>
    cases h
    rw [resume, htake, State.emit_nil]
    rfl
  | inChar =>
    cases h
    rw [resume, htake, ← State.emit_emit]
    rfl
  | puts | putsp =>
    cases h
    rw [resume, htake, State.emit_nil, ← State.link_reg_zero]
    rfl
  | _ => cases h

end Sys2Proof.Machine
end

section
/-! PROOF. O52: what can halt the machine (40_instruction_cycle.md R110, 60_exceptions.md R180, R184). Every operation that
stops the machine names the request that failed; a failed request leaves its trace in the input channel. -/

namespace Sys2Proof.Machine

open Sys2Proof.Claims

/-! ### A request fails only on an error or the end of input -/

/-- The channel holds an error or its end. -/
def Breaks (es : List InEvent) : Prop := .error ∈ es ∨ .eof ∈ es

theorem Breaks.of_suffix {es fs : List InEvent} (h : Breaks es) (hs : es <:+ fs) : Breaks fs :=
  h.imp (fun hmem => hs.mem hmem) (fun hmem => hs.mem hmem)

theorem breaks_of_inPoll {es : List InEvent} (h : inPoll es = .error) : Breaks es := by
  match es with
  | .eof :: _ => exact .inr List.mem_cons_self
  | .error :: _ => exact .inl List.mem_cons_self

theorem breaks_of_inRead {es : List InEvent} (h : inRead es = .error) : Breaks es := by
  induction es with
  | nil => cases h
  | cons e es ih =>
    cases e with
    | byte => cases h
    | pause => exact (ih h).of_suffix (List.suffix_cons _ _)
    | eof => exact .inr List.mem_cons_self
    | error => exact .inl List.mem_cons_self

theorem breaks_of_readFails {a : Word} {s : State} (h : ReadFails a s) : Breaks s.input :=
  breaks_of_inPoll h.2

theorem readsAs_of_memRead_ok {a v : Word} {s t : State} (h : memRead a s = .ok v t) : ReadsAs a v s t := by
  have hok : ¬ ReadFails a s := fun hfail => by cases h.symm.trans (memRead_of_readFails hfail)
  obtain ⟨v', t', hread, hreads⟩ := memRead_readsAs hok
  cases h.symm.trans hread
  exact hreads

theorem input_suffix_of_readsAs {a v : Word} {s t : State} (h : ReadsAs a v s t) : t.input <:+ s.input := by
  have hs := inPoll_suffix s.input
  rcases h with ⟨-, -, rfl⟩ | ⟨-, b, rest, hpoll, -, -, -, -, hin, -⟩ | ⟨-, rest, hpoll, -, -, -, -, hin, -⟩
  · exact List.suffix_refl _
  · rw [hpoll] at hs
    rw [hin, hs]
    exact List.suffix_cons _ _
  · rw [hpoll] at hs
    rwa [hin]

theorem input_suffix_of_putsRunsOn {n : Nat} {a b : Word} {s t : State} (h : PutsRunsOn n a s b t) :
    t.input <:+ s.input := by
  induction h with
  | here => exact List.suffix_refl _
  | more n a w b s t u hread _ _ ih => exact ih.trans (memRead_ok hread).1.input

theorem input_suffix_of_putspRunsOn {n : Nat} {a b : Word} {s t : State} (h : PutspRunsOn n a s b t) :
    t.input <:+ s.input := by
  induction h with
  | here => exact List.suffix_refl _
  | more n a w b s t u hread _ _ ih => exact ih.trans (memRead_ok hread).1.input

theorem breaks_of_putsFails {a : Word} {s : State} (h : PutsFails a s) : Breaks s.input := by
  obtain ⟨n, b, t, hruns, hfail⟩ := h
  exact (breaks_of_readFails hfail).of_suffix (input_suffix_of_putsRunsOn hruns)

theorem breaks_of_putspFails {a : Word} {s : State} (h : PutspFails a s) : Breaks s.input := by
  obtain ⟨n, b, t, hruns, hfail⟩ := h
  exact (breaks_of_readFails hfail).of_suffix (input_suffix_of_putspRunsOn hruns)

theorem breaks_of_executePollFails {i : Instr} {s : State} (h : ExecutePollFails i s) : Breaks s.input := by
  cases i with
  | ld | sti | ldr => exact breaks_of_readFails h
  | ldi =>
    rcases h with hfail | ⟨ea, t, hreads, hfail⟩
    · exact breaks_of_readFails hfail
    · exact (breaks_of_readFails hfail).of_suffix (input_suffix_of_readsAs hreads)
  | puts => exact breaks_of_putsFails (s := s.link) h
  | putsp => exact breaks_of_putspFails (s := s.link) h
  | _ => cases h

theorem breaks_of_pollFailsIn {s : State} (h : PollFailsIn s) : Breaks s.input := by
  rcases h with ⟨-, hfail | ⟨w, u, hfetch, hfail⟩⟩ | ⟨a, -, hfail⟩ | ⟨a, -, hfail⟩
  · exact breaks_of_readFails hfail
  · exact (breaks_of_executePollFails hfail).of_suffix (fetch_ok_fetched hfetch).input
  · exact breaks_of_putsFails (s := s.takeUp) hfail
  · exact breaks_of_putspFails (s := s.takeUp) hfail

theorem breaks_of_readRequestFailsIn {w : Word} {s : State} (h : ReadRequestFailsIn w s) : Breaks s.input := by
  rcases h with ⟨-, u, hfetch, -, hfail⟩ | ⟨-, -, hfail⟩
  · exact (breaks_of_inRead hfail).of_suffix (fetch_ok_fetched hfetch).input
  · exact breaks_of_inRead hfail

/-! ### What stops each operation -/

section

variable {s t : State} {c : Cause} {info : Word}

theorem putsLoop_halts {k : Nat} {a : Word} (hrun : s.run = .running) (h : (putsLoop k a s).run = .halted c info) :
    PutsFails a s ∧ c = .inputError ∧ info = config.kbsrAddr := by
  induction k generalizing a s with
  | zero => exact absurd h (not_halted_of_run_eq hrun rfl)
  | succ k ih =>
    rcases after_memRead_halts hrun h with ⟨hfail, hcause⟩ | ⟨w, t, hread, hrun', hhalt⟩
    · exact ⟨⟨0, a, s, .here a s, hfail⟩, hcause⟩
    · by_cases hw : w = 0#16
      · rw [if_pos hw] at hhalt
        exact absurd hhalt (not_halted_of_run_eq hrun' rfl)
      · rw [if_neg hw] at hhalt
        obtain ⟨⟨n, b, v, hruns, hfail⟩, hcause⟩ := ih (s := t.outByte (lowByte w)) hrun' hhalt
        exact ⟨⟨n + 1, b, v, .more n a w b s t v hread hw hruns, hfail⟩, hcause⟩

theorem putspLoop_halts {k : Nat} {a : Word} (hrun : s.run = .running) (h : (putspLoop k a s).run = .halted c info) :
    PutspFails a s ∧ c = .inputError ∧ info = config.kbsrAddr := by
  induction k generalizing a s with
  | zero => exact absurd h (not_halted_of_run_eq hrun rfl)
  | succ k ih =>
    rcases after_memRead_halts hrun h with ⟨hfail, hcause⟩ | ⟨w, t, hread, hrun', hhalt⟩
    · exact ⟨⟨0, a, s, .here a s, hfail⟩, hcause⟩
    · by_cases hw : w = 0#16
      · rw [if_pos hw] at hhalt
        exact absurd hhalt (not_halted_of_run_eq hrun' rfl)
      · by_cases hhigh : highByte w = 0#8
        · rw [if_neg hw, if_pos hhigh] at hhalt
          exact absurd hhalt (not_halted_of_run_eq hrun' rfl)
        · rw [if_neg hw, if_neg hhigh] at hhalt
          obtain ⟨⟨n, b, v, hruns, hfail⟩, hcause⟩ :=
            ih (s := (t.outByte (lowByte w)).outByte (highByte w)) hrun' hhalt
          exact ⟨⟨n + 1, b, v, .more n a w b s t v hread hhigh hruns, hfail⟩, hcause⟩

theorem BlockingRead.halts {u : Unfinished} {echo : Byte → List OutEvent} (h : BlockingRead u echo s t)
    (hrun : s.run = .running) (hhalt : t.run = .halted c info) :
    inRead s.input = .error ∧ c = .inputError ∧ info = s.ir := by
  cases h with
  | byte b rest hin =>
    have hkept : (((s.setInput rest).emit (echo b)).putChar b).run = s.run := by simp [State.putChar_frame]
    exact absurd hhalt (not_halted_of_run_eq hrun hkept)
  | waiting => exact absurd hhalt (not_halted_of_run_eq hrun rfl)
  | error hin =>
    cases hhalt
    exact ⟨hin, rfl, rfl⟩

/-- Why the execute phase of `i` in `s` stops the machine, with the cause and the information word that go with it
(60_exceptions.md R182 to R184). -/
inductive StopReason (i : Instr) (s : State) : Cause → Word → Prop
  | poll : ExecutePollFails i s → StopReason i s .inputError config.kbsrAddr
  | request : i = .getc ∨ i = .inChar → inRead s.input = .error → StopReason i s .inputError s.ir
  | haltSignal : classify i = .haltSignal → StopReason i s .haltTrap s.ir
  | reservedOpcode : classify i = .decodeError .reservedOpcode → StopReason i s .reservedOpcode s.ir
  | unknownVector : classify i = .decodeError .invalidTrapVector → StopReason i s .invalidTrapVector s.ir

theorem exec_halts {i : Instr} (h : exec i s = .next t) (hrun : s.run = .running) (hhalt : t.run = .halted c info) :
    StopReason i s c info := by
  cases i with
  | ld dr off9 | sti sr off9 =>
    cases h
    obtain ⟨hfail, rfl, rfl⟩ := readFails_of_after_memRead_halts hrun hhalt fun _ _ => rfl
    rw [State.pcRel_eq_offset] at hfail
    exact .poll hfail
  | ldr dr baseR off6 =>
    cases h
    obtain ⟨hfail, rfl, rfl⟩ := readFails_of_after_memRead_halts hrun hhalt fun _ _ => rfl
    rw [State.baseOff_eq_offset] at hfail
    exact .poll hfail
  | ldi dr off9 =>
    cases h
    rw [State.pcRel_eq_offset] at hhalt
    rcases after_memRead_halts hrun hhalt with ⟨hfail, rfl, rfl⟩ | ⟨ea, u, hread, hrun', hhalt'⟩
    · exact .poll (.inl hfail)
    · obtain ⟨hfail, rfl, rfl⟩ := readFails_of_after_memRead_halts hrun' hhalt' fun _ _ => rfl
      exact .poll (.inr ⟨ea, u, readsAs_of_memRead_ok hread, hfail⟩)
  | puts =>
    cases h
    obtain ⟨hfail, rfl, rfl⟩ := putsLoop_halts (s := s.link) hrun hhalt
    rw [State.link_reg_zero] at hfail
    exact .poll hfail
  | putsp =>
    cases h
    obtain ⟨hfail, rfl, rfl⟩ := putspLoop_halts (s := s.link) hrun hhalt
    rw [State.link_reg_zero] at hfail
    exact .poll hfail
  | getc =>
    cases h
    obtain ⟨hfail, rfl, rfl⟩ := (getcRead_blockingRead s.link).halts hrun hhalt
    exact .request (.inl rfl) hfail
  | inChar =>
    cases h
    obtain ⟨hfail, rfl, rfl⟩ := (inCharRead_blockingRead ((s.link.outBytes config.inPrompt).outFlush)).halts hrun hhalt
    exact .request (.inr rfl) hfail
  | halt => cases h; cases hhalt; exact .haltSignal rfl
  | rti | res => cases h; cases hhalt; exact .reservedOpcode rfl
  | trap => cases h; cases hhalt; exact .unknownVector rfl
  | br =>
    cases h
    split at hhalt <;> exact absurd hhalt (not_halted_of_run_eq hrun rfl)
  | _ => cases h; exact absurd hhalt (not_halted_of_run_eq hrun rfl)

/-- The machine stops because a request of the step from `s` failed (R184). -/
inductive FailedRequest (s : State) : Cause → Word → Prop
  | poll : PollFailsIn s → FailedRequest s .inputError config.kbsrAddr
  | read (w : Word) : ReadRequestFailsIn w s → FailedRequest s .inputError w

theorem resume_halts {u : Unfinished} (hrun : s.run = .running) (hwait : s.wait = some u)
    (hhalt : (resume u s).run = .halted c info) : FailedRequest s c info := by
  cases u with
  | getc =>
    obtain ⟨hfail, rfl, rfl⟩ := (getcRead_blockingRead s.takeUp).halts hrun hhalt
    exact .read _ (.inr ⟨.inl hwait, rfl, hfail⟩)
  | inChar =>
    obtain ⟨hfail, rfl, rfl⟩ := (inCharRead_blockingRead s.takeUp).halts hrun hhalt
    exact .read _ (.inr ⟨.inr hwait, rfl, hfail⟩)
  | puts a =>
    obtain ⟨hfail, rfl, rfl⟩ := putsLoop_halts (s := s.takeUp) hrun hhalt
    exact .poll (.inr (.inl ⟨a, hwait, hfail⟩))
  | putsp a =>
    obtain ⟨hfail, rfl, rfl⟩ := putspLoop_halts (s := s.takeUp) hrun hhalt
    exact .poll (.inr (.inr ⟨a, hwait, hfail⟩))

theorem fetch_stop_halts (hwait : s.wait = none) (hfetch : fetch s = .stop t) (hhalt : t.run = .halted c info) :
    FailedRequest s c info := by
  obtain ⟨-, -, rfl⟩ := memRead_stop (fetch_stop hfetch)
  cases hhalt
  exact .poll (.inl ⟨hwait, .inl (readFails_of_fetch_stop hfetch)⟩)

/-- A failed request has the cause InputError, and shows in the channel. -/
theorem FailedRequest.breaks (h : FailedRequest s c info) :
    c = .inputError ∧ ((info = config.kbsrAddr ∧ PollFailsIn s) ∨ ReadRequestFailsIn info s) ∧ Breaks s.input := by
  cases h with
  | poll hfail => exact ⟨rfl, .inl ⟨rfl, hfail⟩, breaks_of_pollFailsIn hfail⟩
  | read _ hfail => exact ⟨rfl, .inr hfail, breaks_of_readRequestFailsIn hfail⟩

end

/-- Settles O52: a resumed step and a fetch stop only by a failed request; the execute phase for one of its `StopReason`s,
whose information word is the word just fetched. -/
theorem onlyTheFourCausesHaltTheMachine : Obligations.OnlyTheFourCausesHaltTheMachine := by
  intro s t c info hrun hstep hhalt
  rcases step_cases hstep with ⟨hne, -⟩ | ⟨u, -, hwait, rfl⟩ | ⟨-, hwait, hfetch⟩ | ⟨w, v, -, hwait, hfetch, hexec⟩
  · exact absurd hrun hne
  · exact .inl (resume_halts hrun hwait hhalt).breaks
  · exact .inl (fetch_stop_halts hwait hfetch hhalt).breaks
  · have hfetched := fetch_ok_fetched hfetch
    obtain rfl : v.ir = w := hfetched.ir
    cases exec_halts hexec (hfetched.run.trans hrun) hhalt with
    | poll hfail => exact .inl (FailedRequest.poll (.inl ⟨hwait, .inr ⟨v.ir, v, hfetch, hfail⟩⟩)).breaks
    | request hi hfail => exact .inl (FailedRequest.read v.ir (.inl ⟨hwait, v, hfetch, hi, hfail⟩)).breaks
    | haltSignal hc => exact .inr ⟨hwait, v, hfetch, .inl ⟨rfl, hc⟩⟩
    | reservedOpcode hc => exact .inr ⟨hwait, v, hfetch, .inr (.inl ⟨rfl, hc⟩)⟩
    | unknownVector hc => exact .inr ⟨hwait, v, hfetch, .inr (.inr ⟨rfl, hc⟩)⟩

end Sys2Proof.Machine
end

section
/-! PROOF. O53: every step keeps the invariant. Its three clauses are kept one by one; the last is `step_steps_ne_zero`. -/

namespace Sys2Proof.Machine

open Sys2Proof.Claims

/-! ### Canonical memory -/

theorem resume_wf (u : Unfinished) {s : State} (hwf : Memory.wf s.mem) : Memory.wf (resume u s).mem := by
  rcases resume_cases u s with ⟨-, echo, hread⟩ | ⟨-, hframe, -⟩
  · exact hread.mem ▸ hwf
  · exact hframe.wf hwf

theorem exec_wf {i : Instr} {s t : State} (h : exec i s = .next t) (hwait : s.wait = none) (hwf : Memory.wf s.mem) :
    Memory.wf t.mem := by
  cases hstart : serviceStart i s with
  | some start =>
    cases (exec_of_serviceStart hstart hwait).symm.trans h
    exact resume_wf start.2 hwf
  | none =>
    cases i with
    | getc | inChar | puts | putsp => cases hstart
    | ld | ldr => cases h; exact wf_after_memRead _ s hwf fun _ _ => id
    | ldi => cases h; exact wf_after_memRead _ s hwf fun ea u hu => wf_after_memRead ea u hu fun _ _ => id
    | sti => cases h; exact wf_after_memRead _ s hwf fun _ u hu => Memory.wf_memWrite u _ _ hu
    | st | str => cases h; exact Memory.wf_memWrite s _ _ hwf
    | br | halt =>
      cases h
      split <;> exact hwf
    | _ => cases h; exact hwf

theorem step_wf {s t : State} (h : step s = .next t) (hwf : Memory.wf s.mem) : Memory.wf t.mem := by
  rcases step_cases h with ⟨-, rfl⟩ | ⟨u, -, -, rfl⟩ | ⟨-, -, hfetch⟩ | ⟨w, v, -, hwait, hfetch, hexec⟩
  · exact hwf
  · exact resume_wf u hwf
  · exact (ReadFrame.of_stop (fetch_stop hfetch)).wf hwf
  · have hfetched := fetch_ok_fetched hfetch
    exact exec_wf hexec (hfetched.wait.trans hwait) (hfetched.wf hwf)

/-! ### The unfinished step -/

/-- An unfinished step belongs to a RUNNING machine whose R7 holds the link, which is PC (40_instruction_cycle.md R112). -/
def WaitLinked (s : State) : Prop := s.wait ≠ none → s.run = .running ∧ s.reg 7#3 = s.pc

theorem waitLinked_of_wait_none {s : State} (h : s.wait = none) : WaitLinked s := fun hwait => absurd h hwait

/-- A resumed step writes neither R7 nor PC, and one that leaves itself unfinished again runs on. -/
theorem resume_waitLinked (u : Unfinished) {s : State} (hrun : s.run = .running) (hlink : s.reg 7#3 = s.pc) :
    WaitLinked (resume u s) := by
  intro hwait
  have hframe := resume_writesOnly u s
  have hregs : (resume u s).reg 7#3 = s.reg 7#3 := hframe.regs 7#3 (by split <;> decide)
  exact ⟨((resume_wait_or_run u s).resolve_left hwait).trans hrun, (hregs.trans hlink).trans (hframe.pc rfl).symm⟩

theorem exec_waitLinked {i : Instr} {s t : State} (h : exec i s = .next t) (hrun : s.run = .running)
    (hwait : s.wait = none) : WaitLinked t := by
  cases hstart : serviceStart i s with
  | some start =>
    cases (exec_of_serviceStart hstart hwait).symm.trans h
    exact resume_waitLinked start.2 hrun (State.reg_setReg_same s 7#3 s.pc)
  | none =>
    refine waitLinked_of_wait_none (Eq.trans ?_ hwait)
    cases i with
    | getc | inChar | puts | putsp => cases hstart
    | ld | ldr | sti => cases h; exact wait_after_memRead _ s fun _ _ => rfl
    | ldi => cases h; exact wait_after_memRead _ s fun ea u => wait_after_memRead ea u fun _ _ => rfl
    | br | halt =>
      cases h
      split <;> rfl
    | _ => cases h; rfl

theorem step_waitLinked {s t : State} (h : step s = .next t) (hs : WaitLinked s) : WaitLinked t := by
  rcases step_cases h with ⟨-, rfl⟩ | ⟨u, hrun, hwait, rfl⟩ | ⟨-, hwait, hfetch⟩ | ⟨w, v, hrun, hwait, hfetch, hexec⟩
  · exact hs
  · obtain ⟨-, hlink⟩ := hs (by simp [hwait])
    exact resume_waitLinked u hrun hlink
  · obtain ⟨-, -, rfl⟩ := memRead_stop (fetch_stop hfetch)
    exact waitLinked_of_wait_none hwait
  · have hfetched := fetch_ok_fetched hfetch
    exact exec_waitLinked hexec (hfetched.run.trans hrun) (hfetched.wait.trans hwait)

/-- Settles O53. -/
theorem stepKeepsTheInvariant : Obligations.StepKeepsTheInvariant := by
  intro s t hinv hstep
  have ⟨hwf, hlinked, _⟩ := hinv
  exact ⟨step_wf hstep hwf, step_waitLinked hstep hlinked, fun _ => step_steps_ne_zero hinv hstep⟩

end Sys2Proof.Machine
end

section
/-! PROOF. O44: an input step that waits (40_instruction_cycle.md R112). Taking up the step with a channel and beginning it
with that channel come to the same resumed step, which is fixed by the answer of its request. -/

namespace Sys2Proof.Machine

open Sys2Proof.Claims

/-- What a service sends for the byte it reads: IN echoes it and flushes, GETC nothing (44_trap.md R157, R160). -/
def echoOf (u : Unfinished) (b : Byte) : List OutEvent :=
  match u with
  | .inChar => [.byte b, .flush]
  | .getc | .puts _ | .putsp _ => []

/-! ### A resumed read, by the answer of its request -/

section

variable {u : Unfinished} {s : State}

theorem resume_of_inRead_byte (hu : awaitsInput u = true) {b : Byte} {rest : List InEvent}
    (h : inRead s.input = .byte b rest) :
    resume u s = ((s.takeUp.setInput rest).emit (echoOf u b)).putChar b := by
  cases u with
  | getc => simp only [resume, getcRead, State.takeUp_input, h, echoOf, State.emit_nil]
  | inChar =>
    simp only [resume, inCharRead, State.takeUp_input, h, echoOf, State.outByte, State.outFlush, State.emit_emit]
    rfl
  | puts | putsp => cases hu

theorem resume_of_inRead_waiting (hu : awaitsInput u = true) {rest : List InEvent} (h : inRead s.input = .waiting rest) :
    resume u s = (s.takeUp.setInput rest).suspend u := by
  cases u with
  | getc => simp only [resume, getcRead, State.takeUp_input, h]
  | inChar => simp only [resume, inCharRead, State.takeUp_input, h]
  | puts | putsp => cases hu

theorem resume_of_inRead_error (hu : awaitsInput u = true) (h : inRead s.input = .error) :
    resume u s = s.takeUp.raise .inputError s.ir := by
  cases u with
  | getc => simp only [resume, getcRead, State.takeUp_input, h, State.takeUp_ir]
  | inChar => simp only [resume, inCharRead, State.takeUp_input, h, State.takeUp_ir]
  | puts | putsp => cases hu

end

/-! ### The split step -/

/-- GETC and IN begin alike in every state. -/
theorem serviceStart_of_input {i : Instr} (h : i = .getc ∨ i = .inChar) :
    ∃ es u, awaitsInput u = true ∧ ∀ s, serviceStart i s = some (es, u) := by
  rcases h with rfl | rfl
  · exact ⟨_, .getc, rfl, fun _ => rfl⟩
  · exact ⟨_, .inChar, rfl, fun _ => rfl⟩

/-- The machine inside an input service that waits: linked, `es` sent, every pause taken. -/
def State.awaiting (s : State) (es : List OutEvent) (u : Unfinished) : State :=
  ((s.link.emit es).takeUp.setInput []).suspend u

section

variable {i : Instr} {s : State} {es : List OutEvent} {u : Unfinished} {k : Nat}

theorem exec_waits (hstart : serviceStart i s = some (es, u)) (hu : awaitsInput u = true) (hwait : s.wait = none)
    (hin : s.input = List.replicate k .pause) : exec i s = .next (s.awaiting es u) := by
  have hread : inRead (s.link.emit es).input = .waiting [] := by
    rw [State.emit_input, State.link_input, hin, ← List.append_nil (List.replicate k _), inRead_pauses]
    rfl
  rw [exec_of_serviceStart hstart hwait, resume_of_inRead_waiting hu hread]
  rfl

/-- The request of the split step, once `e` has come, is the request of the whole step. -/
theorem inRead_supply (hin : s.input = List.replicate k .pause) (e : InEvent) :
    inRead ((s.supply [e]).link.emit es).input = inRead ((s.awaiting es u).supply [e]).input := by
  rw [State.emit_input, State.link_input, State.supply, hin, inRead_pauses]
  rfl

theorem step_awaiting (hrun : s.run = .running) (fs : List InEvent) :
    step ((s.awaiting es u).supply fs) = .next (resume u ((s.awaiting es u).supply fs)) :=
  step_resume hrun rfl

theorem step_awaiting_stays (hu : awaitsInput u = true) (hrun : s.run = .running) :
    step (s.awaiting es u) = .next (s.awaiting es u) := by
  rw [step_resume (s := s.awaiting es u) (u := u) hrun rfl, resume_of_inRead_waiting (rest := []) hu rfl]
  rfl

/-- A byte that comes while the service waits and one that was there at once lead to the same state. -/
theorem resume_awaiting_byte (hu : awaitsInput u = true) (hin : s.input = List.replicate k .pause) (b : Byte) :
    resume u ((s.supply [.byte b]).link.emit es) = resume u ((s.awaiting es u).supply [.byte b]) := by
  have hread : inRead ((s.awaiting es u).supply [.byte b]).input = .byte b [] := rfl
  rw [resume_of_inRead_byte hu hread, resume_of_inRead_byte hu ((inRead_supply hin _).trans hread)]
  rfl

theorem resume_byte_wait (hu : awaitsInput u = true) {b : Byte} {rest : List InEvent}
    (h : inRead s.input = .byte b rest) : (resume u s).wait = none := by
  simp [resume_of_inRead_byte hu h, State.putChar_frame]

end

theorem inRead_break {e : InEvent} (h : e = .error ∨ e = .eof ∧ config.inEofPolicy = .error) : inRead [e] = .error := by
  rcases h with rfl | ⟨rfl, heof⟩
  · rfl
  · simp only [inRead, heof]

/-- Settles O44: the wait is `State.awaiting`; from there and from the start the step goes on as the same resumed read. -/
theorem waitingForInputSplitsOneStep : Obligations.WaitingForInputSplitsOneStep := by
  intro i s k hi hrun hwait hin
  obtain ⟨es, u, hu, hstart⟩ := serviceStart_of_input hi
  have hwhole (fs : List InEvent) : exec i (s.supply fs) = .next (resume u ((s.supply fs).link.emit es)) :=
    exec_of_serviceStart (hstart _) hwait
  refine ⟨s.awaiting es u, exec_waits (hstart s) hu hwait hin, hrun, step_awaiting_stays hu hrun, fun b => ?_,
    fun e he => ?_⟩
  · refine ⟨_, step_awaiting hrun [.byte b], ?_, resume_byte_wait hu (rest := []) rfl⟩
    rw [hwhole, resume_awaiting_byte hu hin]
  · have hread : inRead ((s.awaiting es u).supply [e]).input = .error := inRead_break he
    refine ⟨((s.awaiting es u).supply [e]).takeUp.raise .inputError s.ir, ?_, ?_, rfl,
      State.reg_setReg_same s 7#3 s.pc, fun r hr => ?_, rfl, rfl, fun _ => rfl, rfl, rfl, rfl, rfl, rfl, rfl⟩
    · rw [step_awaiting hrun, resume_of_inRead_error hu hread]
      rfl
    · rw [hwhole, resume_of_inRead_error hu ((inRead_supply hin e).trans hread)]
      rfl
    · exact State.reg_setReg_other s 7#3 r s.pc fun e => hr (e ▸ List.mem_singleton_self _)

end Sys2Proof.Machine
end

section
/-! PROOF. O39, O40, O41, O8: the phases of one step (40_instruction_cycle.md R101 to R106), and the flag update (R108). -/

namespace Sys2Proof.Machine

open Sys2Proof.Claims

/-- Settles O8. -/
theorem setccFollowsTheRangeOfTheWord : Obligations.SetccFollowsTheRangeOfTheWord := by
  intro s v
  exact ⟨flagOf_condOf v, fun _ => rfl, rfl, fun _ => rfl, ⟨rfl, rfl⟩, rfl, rfl, rfl, rfl, rfl⟩

/-- Settles O39: the third clause is the second on an encoded word. -/
theorem stepRunsTheDecodedInstruction : Obligations.StepRunsTheDecodedInstruction := by
  intro s hrun hwait
  have hordinary (hpc : s.pc ≠ config.kbsrAddr) :=
    step_fetch_ok hrun hwait (fetch_ordinary s hpc)
  refine ⟨fun w u hread => step_fetch_ok hrun hwait (fetch_of_memRead_ok hread), hordinary, fun i hi hpc hword => ?_⟩
  have hstep := hordinary hpc
  rw [hword, decode_encode hi] at hstep
  exact hstep

/-- Settles O40. -/
theorem failedFetchLeavesPc : Obligations.FailedFetchLeavesPc := by
  intro s hrun hwait hfail
  exact ⟨_, step_fetch_stop hrun hwait (fetch_of_readFails hfail), stopsWith_raise _ _ s.beginStep⟩

/-- The halt-signal after a fetch (R105). -/
theorem exec_halt_of_fetched {s u : State} {w : Word} (h : Fetched w s u) :
    ∃ t, exec .halt u = .next t ∧ t.run = .halted .haltTrap w ∧
      (if config.haltLinks then t.reg 7 = u.pc ∧ SameRegsBut [7] s t else SameRegs s t) ∧ t.pc = s.pc + 1#16 ∧
      t.cond = s.cond ∧ SameMemory u t ∧ t.output = s.output ++ [.flush] := by
  obtain rfl := h.ir
  refine ⟨_, rfl, rfl, ?_⟩
  by_cases hlinks : config.haltLinks = true
  · rw [if_pos hlinks, if_pos hlinks]
    refine ⟨⟨State.reg_setReg_same u 7#3 u.pc, fun r hr => ?_⟩, h.pc, h.cond, fun _ => rfl,
      congrArg (· ++ [OutEvent.flush]) h.output⟩
    exact (State.reg_setReg_other u 7#3 r u.pc fun e => hr (e ▸ List.mem_singleton_self _)).trans (h.regs r)
  · rw [if_neg hlinks, if_neg hlinks]
    exact ⟨h.regs, h.pc, h.cond, fun _ => rfl, congrArg (· ++ [OutEvent.flush]) h.output⟩

/-- The cause a decode error stops the machine with (R106). -/
def causeOfError : DecodeError → Cause
  | .reservedOpcode => .reservedOpcode
  | .invalidTrapVector => .invalidTrapVector

theorem exec_of_decodeError {i : Instr} {e : DecodeError} (h : classify i = .decodeError e) (u : State) :
    exec i u = .next (u.raise (causeOfError e) u.ir) := by
  cases e with
  | reservedOpcode => rcases eq_reserved_of_classify h with rfl | rfl <;> rfl
  | invalidTrapVector =>
    obtain ⟨v, rfl⟩ := eq_trap_of_classify h
    rfl

/-- Settles O41. -/
theorem haltAndDecodeErrorsEndTheStep : Obligations.HaltAndDecodeErrorsEndTheStep := by
  intro s u w hrun hwait hfetch
  have hfetched := fetch_ok_fetched hfetch
  rw [step_fetch_ok hrun hwait hfetch]
  refine ⟨fun hhalt => ?_, fun e herr => ?_⟩
  · rw [eq_halt_of_classify hhalt]
    exact exec_halt_of_fetched hfetched
  · obtain rfl := hfetched.ir
    refine ⟨_, exec_of_decodeError herr u, ?_, hfetched.regs, hfetched.pc, hfetched.cond, fun _ => rfl, hfetched.output⟩
    cases e <;> rfl

end Sys2Proof.Machine
end

section
/-! PROOF. O9, O10, O11: ADD, AND and NOT (41_arithmetic_logic.md). Each is one `writeDr`; what is left is the result as the
rule writes it, in numbers (R121, R122, R125) or bit by bit (R123, R124). -/

namespace Sys2Proof.Machine

open Sys2Proof.Claims

/-- `writeDr` writes DR and COND (R109) and leaves the rest of the state alone. -/
theorem defines_writeDr (dr : Reg) (v : Word) (s : State) : Defines dr v s (s.writeDr dr v) := by
  refine ⟨?_, fun r hr => ?_, flagOf_condOf v, rfl, fun _ => rfl, ⟨rfl, rfl⟩, rfl, rfl, rfl, rfl, rfl⟩
  · rw [State.reg_writeDr, if_pos rfl]
  · rw [State.reg_writeDr, if_neg (List.ne_of_not_mem_cons hr)]

/-! ### The five meanings as writes of DR -/

theorem exec_addReg (dr sr1 sr2 : Reg) (s : State) :
    exec (.addReg dr sr1 sr2) s = .next (s.writeDr dr (s.reg sr1 + s.reg sr2)) := rfl

theorem exec_addImm (dr sr1 : Reg) (imm5 : BitVec 5) (s : State) :
    exec (.addImm dr sr1 imm5) s = .next (s.writeDr dr (s.reg sr1 + sext imm5)) := rfl

theorem exec_andReg (dr sr1 sr2 : Reg) (s : State) :
    exec (.andReg dr sr1 sr2) s = .next (s.writeDr dr (s.reg sr1 &&& s.reg sr2)) := rfl

theorem exec_andImm (dr sr1 : Reg) (imm5 : BitVec 5) (s : State) :
    exec (.andImm dr sr1 imm5) s = .next (s.writeDr dr (s.reg sr1 &&& sext imm5)) := rfl

theorem exec_not (dr sr : Reg) (s : State) : exec (.not dr sr) s = .next (s.writeDr dr (~~~ (s.reg sr))) := rfl

/-! ### The results -/

theorem add_eq_ofNat_mod (a b : Word) : a + b = BitVec.ofNat 16 ((a.toNat + b.toNat) % 65536) :=
  eq_ofNat_of_toNat (BitVec.toNat_add a b)

theorem not_eq_ofNat_sub (a : Word) : ~~~a = BitVec.ofNat 16 (0xFFFF - a.toNat) :=
  eq_ofNat_of_toNat BitVec.toNat_not

/-- The top bit of imm5 stands in every bit from 4 up. -/
theorem getLsbD_sext_imm5 (imm5 : BitVec 5) {k : Nat} (hk : k < 16) : (sext imm5).getLsbD k = imm5.getLsbD (min k 4) := by
  rw [getLsbD_sext imm5 k hk]
  split
  · rw [Nat.min_eq_left (by omega)]
  · rw [Nat.min_eq_right (by omega)]

/-- Settles O9: the register form's sum is the modular one, the immediate form's a signed offset. -/
theorem addWritesTheSumModulo65536 : Obligations.AddWritesTheSumModulo65536 := by
  refine ⟨fun dr sr1 sr2 s => ⟨_, exec_addReg dr sr1 sr2 s, ?_⟩, fun dr sr1 imm5 s => ⟨_, exec_addImm dr sr1 imm5 s, ?_⟩⟩
  · rw [← add_eq_ofNat_mod]
    exact defines_writeDr dr _ s
  · rw [← add_sext_eq_offset (s.reg sr1) imm5 (by decide)]
    exact defines_writeDr dr _ s

/-- Settles O10: in both forms the bits of the result are the library's for `&&&`; the immediate's are those of its
extension. -/
theorem andWritesTheBitwiseAnd : Obligations.AndWritesTheBitwiseAnd := by
  refine ⟨fun dr sr1 sr2 s => ⟨_, _, exec_andReg dr sr1 sr2 s, defines_writeDr dr _ s, fun k _ => BitVec.getLsbD_and⟩,
    fun dr sr1 imm5 s => ⟨_, _, exec_andImm dr sr1 imm5 s, defines_writeDr dr _ s, fun k hk => ?_⟩⟩
  rw [BitVec.getLsbD_and, getLsbD_sext_imm5 imm5 hk]

/-- Settles O11. -/
theorem notWritesTheComplement : Obligations.NotWritesTheComplement := by
  intro dr sr s
  refine ⟨_, exec_not dr sr s, ?_⟩
  rw [← not_eq_ofNat_sub]
  exact defines_writeDr dr _ s

end Sys2Proof.Machine
end

section
/-! PROOF. O12, O14, O15, O16: BR, JMP, RET, JSR and JSRR (42_control_transfer.md). A transfer is one `setPc`, for JSR and
JSRR after the link; what is left is the target as the rule writes it and, for BR, when it is taken (R131). -/

namespace Sys2Proof.Machine

open Sys2Proof.Claims

/-! ### The two shapes of a transfer -/

theorem transfers_setPc (target : Word) (s : State) : Transfers target [] s (s.setPc target) :=
  ⟨rfl, fun _ _ => rfl, rfl, fun _ => rfl, ⟨rfl, rfl⟩, rfl, rfl, rfl, rfl, rfl⟩

/-- An instruction that writes nothing leaves PC at the next one. -/
theorem transfers_refl (s : State) : Transfers s.pc [] s s := transfers_setPc s.pc s

theorem transfers_link_setPc (target : Word) (s : State) : Transfers target [7] s (s.link.setPc target) :=
  ⟨rfl, fun r hr => State.reg_setReg_other s 7#3 r s.pc (List.ne_of_not_mem_cons hr), rfl, fun _ => rfl, ⟨rfl, rfl⟩,
    rfl, rfl, rfl, rfl, rfl⟩

theorem reg_seven_link_setPc (target : Word) (s : State) : (s.link.setPc target).reg 7 = s.pc :=
  State.reg_setReg_same s 7#3 s.pc

/-! ### The five meanings, their targets as the rules write them -/

theorem exec_br_of_taken {n z p : Bool} {s : State} (h : branchTaken n z p s.cond = true) (off9 : BitVec 9) :
    exec (.br n z p off9) s = .next (s.setPc (offset s.pc off9)) := by
  rw [exec_br, execBr, if_pos h, State.pcRel_eq_offset]

theorem exec_br_of_not_taken {n z p : Bool} {s : State} (h : ¬ branchTaken n z p s.cond = true) (off9 : BitVec 9) :
    exec (.br n z p off9) s = .next s := by
  rw [exec_br, execBr, if_neg h]

theorem exec_jmp (baseR : Reg) (s : State) : exec (.jmp baseR) s = .next (s.setPc (s.reg baseR)) := rfl

theorem exec_ret (s : State) : exec .ret s = .next (s.setPc (s.reg 7)) := rfl

theorem exec_jsr (off11 : BitVec 11) (s : State) :
    exec (.jsr off11) s = .next (s.link.setPc (offset s.pc off11)) := by
  rw [← add_sext_eq_offset s.pc off11 (by decide)]
  rfl

/-- The base register is read through the link: register 7 then holds the incremented PC (decision D20). -/
theorem exec_jsrr (baseR : Reg) (s : State) :
    exec (.jsrr baseR) s = .next (s.link.setPc (if baseR = 7 then s.pc else s.reg baseR)) :=
  congrArg (fun target => Host.Outcome.next (s.link.setPc target)) (State.reg_link s baseR)

/-! ### When a BR is taken -/

theorem branchTaken_iff (n z p : Bool) (c : Cond) :
    branchTaken n z p c = true ↔
      (n = false ∧ z = false ∧ p = false) ∨ (n = true ∧ c = .negative) ∨ (z = true ∧ c = .zero) ∨
        (p = true ∧ c = .positive) := by
  simp only [branchTaken, Bool.or_eq_true, Bool.and_eq_true, Bool.not_eq_true', decide_eq_true_eq, and_assoc, or_assoc]

/-- Settles O12: its condition is `branchTaken`; each clause is about one of the two cases, the other excludes it. -/
theorem brIsTakenByItsConditionBits : Obligations.BrIsTakenByItsConditionBits := by
  intro n z p off9 s
  rw [← branchTaken_iff]
  by_cases h : branchTaken n z p s.cond = true
  · exact ⟨_, exec_br_of_taken h off9, fun _ => transfers_setPc _ s, fun hnot => absurd h hnot⟩
  · exact ⟨_, exec_br_of_not_taken h off9, fun htaken => absurd htaken h, fun _ => transfers_refl s⟩

/-- Settles O14. -/
theorem jmpAndRetSetPcFromTheBaseRegister : Obligations.JmpAndRetSetPcFromTheBaseRegister :=
  ⟨fun baseR s => ⟨_, exec_jmp baseR s, transfers_setPc _ s⟩, fun s => ⟨_, exec_ret s, transfers_setPc _ s⟩⟩

/-- Settles O15. -/
theorem jsrLinksAndTransfers : Obligations.JsrLinksAndTransfers :=
  fun off11 s => ⟨_, exec_jsr off11 s, reg_seven_link_setPc _ s, transfers_link_setPc _ s⟩

/-- Settles O16. -/
theorem jsrrLinksBeforeItReadsTheBase : Obligations.JsrrLinksBeforeItReadsTheBase :=
  fun baseR s => ⟨_, exec_jsrr baseR s, reg_seven_link_setPc _ s, transfers_link_setPc _ s⟩

end Sys2Proof.Machine
end

section
/-! PROOF. O21, O22, O23, O26, O24, O25: the loads and stores (43_load_store.md). A load is one memory read with the write
of DR after it, at the address R140 gives; LDI and STI put the pointer read before it. Each read either answers or is a
failing poll, and a failing poll drops what follows it. -/

namespace Sys2Proof.Machine

open Sys2Proof.Claims

/-! ### A read that answers, and a failing poll -/

theorem after_memRead_of_ok {a v : Word} {s t : State} (h : memRead a s = .ok v t) (k : Word → State → State) :
    (memRead a s).after k = k v t := by
  rw [h]
  rfl

/-- A failing poll: what should follow the read is dropped, whatever it is (60_exceptions.md R181, R186). -/
theorem stopsWith_after_memRead {a : Word} {s : State} (h : ReadFails a s) (k : Word → State → State) :
    StopsWith .inputError config.kbsrAddr s ((memRead a s).after k) := by
  rw [memRead_of_readFails h]
  exact stopsWith_raise _ _ s

/-! ### A load from a given address -/

/-- The end of LD, LDI and LDR: `v <- MemRead(a, 1); x[DR] <- v; setcc(v)` (R141 to R143). -/
def loadFrom (dr : Reg) (a : Word) (s : State) : State := (memRead a s).after fun v t => t.writeDr dr v

theorem loadFrom_defines (dr : Reg) {a : Word} {s : State} (h : ¬ ReadFails a s) :
    ∃ v u, ReadsAs a v s u ∧ Defines dr v u (loadFrom dr a s) := by
  obtain ⟨v, u, hread, hreads⟩ := memRead_readsAs h
  refine ⟨v, u, hreads, ?_⟩
  rw [loadFrom, after_memRead_of_ok hread]
  exact defines_writeDr dr v u

theorem loadFrom_stopsWith (dr : Reg) {a : Word} {s : State} (h : ReadFails a s) :
    StopsWith .inputError config.kbsrAddr s (loadFrom dr a s) :=
  stopsWith_after_memRead h _

/-! ### The seven meanings, their addresses as R140 writes them -/

theorem exec_ld (dr : Reg) (off9 : BitVec 9) (s : State) :
    exec (.ld dr off9) s = .next (loadFrom dr (offset s.pc off9) s) := by
  rw [← State.pcRel_eq_offset]
  rfl

theorem exec_ldi (dr : Reg) (off9 : BitVec 9) (s : State) :
    exec (.ldi dr off9) s = .next ((memRead (offset s.pc off9) s).after (loadFrom dr)) := by
  rw [← State.pcRel_eq_offset]
  rfl

theorem exec_ldr (dr baseR : Reg) (off6 : BitVec 6) (s : State) :
    exec (.ldr dr baseR off6) s = .next (loadFrom dr (offset (s.reg baseR) off6) s) := by
  rw [← State.baseOff_eq_offset]
  rfl

theorem exec_lea (dr : Reg) (off9 : BitVec 9) (s : State) :
    exec (.lea dr off9) s = .next (s.writeDr dr (offset s.pc off9)) := by
  rw [← State.pcRel_eq_offset]
  rfl

theorem exec_st (sr : Reg) (off9 : BitVec 9) (s : State) :
    exec (.st sr off9) s = .next (s.memWrite (offset s.pc off9) (s.reg sr)) := by
  rw [← State.pcRel_eq_offset]
  rfl

theorem exec_sti (sr : Reg) (off9 : BitVec 9) (s : State) :
    exec (.sti sr off9) s =
      .next ((memRead (offset s.pc off9) s).after fun ea t => t.memWrite ea (t.reg sr)) := by
  rw [← State.pcRel_eq_offset]
  rfl

theorem exec_str (sr baseR : Reg) (off6 : BitVec 6) (s : State) :
    exec (.str sr baseR off6) s = .next (s.memWrite (offset (s.reg baseR) off6) (s.reg sr)) := by
  rw [← State.baseOff_eq_offset]
  rfl

/-! ### The loads -/

/-- Settles O21: one load, from the PC-relative address. -/
theorem ldLoadsThePcRelativeCell : Obligations.LdLoadsThePcRelativeCell := by
  intro dr off9 s
  refine ⟨fun hread => ?_, fun hfail => ⟨_, exec_ld dr off9 s, loadFrom_stopsWith dr hfail⟩⟩
  obtain ⟨v, u, hreads, hdefines⟩ := loadFrom_defines dr hread
  exact ⟨v, u, _, hreads, exec_ld dr off9 s, hdefines⟩

/-- Settles O23: one load, from the address made of the base register as it stands before DR is written. -/
theorem ldrLoadsTheBasePlusOffsetCell : Obligations.LdrLoadsTheBasePlusOffsetCell := by
  intro dr baseR off6 s
  refine ⟨fun hread => ?_, fun hfail => ⟨_, exec_ldr dr baseR off6 s, loadFrom_stopsWith dr hfail⟩⟩
  obtain ⟨v, u, hreads, hdefines⟩ := loadFrom_defines dr hread
  exact ⟨v, u, _, hreads, exec_ldr dr baseR off6 s, hdefines⟩

/-- Settles O22: once the pointer is read, the rest is one load from it, in the state that read has left. -/
theorem ldiLoadsThroughThePointer : Obligations.LdiLoadsThroughThePointer := by
  intro dr off9 s
  refine ⟨fun hfail => ⟨_, exec_ldi dr off9 s, stopsWith_after_memRead hfail _⟩, fun hptr => ?_⟩
  obtain ⟨ea, u, hread, hreads⟩ := memRead_readsAs hptr
  have hexec : exec (.ldi dr off9) s = .next (loadFrom dr ea u) := by
    rw [exec_ldi, after_memRead_of_ok hread]
  refine ⟨ea, u, hreads, fun hdatum => ?_, fun hfail => ⟨_, hexec, loadFrom_stopsWith dr hfail⟩⟩
  obtain ⟨v, w, hreads', hdefines⟩ := loadFrom_defines dr hdatum
  exact ⟨v, w, _, hreads', hexec, hdefines⟩

/-- Settles O24. -/
theorem leaWritesTheAddressAndTheFlags : Obligations.LeaWritesTheAddressAndTheFlags :=
  fun dr off9 s => ⟨_, exec_lea dr off9 s, defines_writeDr dr _ s⟩

/-! ### The stores -/

/-- Settles O25: each is one plain write (O19). -/
theorem stAndStrStoreOneCell : Obligations.StAndStrStoreOneCell :=
  ⟨fun sr off9 s => ⟨_, exec_st sr off9 s, memoryWriteReplacesOneCell _ _ s⟩,
    fun sr baseR off6 s => ⟨_, exec_str sr baseR off6 s, memoryWriteReplacesOneCell _ _ s⟩⟩

/-- Settles O26: the pointer read leaves SR as it was, so what the plain write then stores is SR of the first state. -/
theorem stiStoresThroughThePointer : Obligations.StiStoresThroughThePointer := by
  intro sr off9 s
  refine ⟨fun hptr => ?_, fun hfail => ⟨_, exec_sti sr off9 s, stopsWith_after_memRead hfail _⟩⟩
  obtain ⟨ea, u, hread, hreads⟩ := memRead_readsAs hptr
  have hsr : u.reg sr = s.reg sr := (memRead_ok hread).1.reg sr
  have hexec : exec (.sti sr off9) s = .next (u.memWrite ea (s.reg sr)) := by
    rw [exec_sti, after_memRead_of_ok hread, hsr]
  exact ⟨ea, u, _, hreads, hexec, memoryWriteReplacesOneCell ea _ u⟩

end Sys2Proof.Machine
end

section
/-! PROOF. The trap services' family (44_trap.md), its common layer, and O29, O30, O31, O36, O37. A service runs in a machine
whose R7 is linked (R155) and in which, beside what the service itself writes, only the two channels have moved on. -/

namespace Sys2Proof.Machine

open Sys2Proof.Claims

/-! ### The machine inside a service -/

theorem State.link_reg_seven (s : State) : s.link.reg 7 = s.pc := State.reg_setReg_same s 7#3 s.pc

theorem State.link_sameRegsBut (s : State) : SameRegsBut [7] s s.link :=
  fun r hr => State.reg_setReg_other s 7#3 r s.pc (List.ne_of_not_mem_cons hr)

/-- The machine of `s` inside a service: R7 linked (R155), `rest` of the input still to come, `out` its output history. -/
def State.serving (s : State) (rest : List InEvent) (out : List OutEvent) : State :=
  { s.link with input := rest, output := out }

/-- A service that only sends: its link and its output are all it changes. -/
theorem State.serving_frame {s t : State} {out : List OutEvent} (ht : t = s.serving s.input out) :
    t.reg 7 = s.pc ∧ SameRegsBut [7] s t ∧ t.pc = s.pc ∧ t.cond = s.cond ∧ SameMemory s t ∧ t.input = s.input ∧
      SameControl s t := by
  subst ht
  exact ⟨s.link_reg_seven, s.link_sameRegsBut, rfl, rfl, fun _ => rfl, rfl, rfl, rfl, rfl, rfl, rfl⟩

/-- What the input byte in R0 makes of a machine inside GETC or IN (R157, R160; log 7). -/
theorem State.serving_putChar {s t : State} {rest : List InEvent} {out : List OutEvent} {b : Byte}
    (ht : t = (s.serving rest out).putChar b) :
    t.reg 7 = s.pc ∧ t.reg 0 = b.setWidth 16 ∧ SameRegsBut [7, 0] s t ∧ t.pc = s.pc ∧
      (if config.trapInSetsFlags then FlagOf (b.setWidth 16) t.cond else t.cond = s.cond) ∧
      SameMemory s t ∧ t.input = rest ∧ t.output = out ∧ SameControl s t := by
  subst ht
  obtain ⟨hzero, hother, hcond, hpc, hrun, hmem, hin, hout, hir, hwait, hsteps, hloaded⟩ :=
    State.putChar_frame (s.serving rest out) b
  refine ⟨(hother 7#3 (by decide)).trans s.link_reg_seven, hzero, fun r hr => ?_, hpc, ?_, State.cell_of_mem_eq hmem, hin,
    hout, hrun, hwait, hir, hsteps, hloaded⟩
  · obtain ⟨hseven, hr0⟩ := not_or.mp (mt List.mem_cons.mpr hr)
    exact (hother r (List.ne_of_not_mem_cons hr0)).trans (s.link_sameRegsBut r (mt List.mem_singleton.mp hseven))
  · rw [hcond]
    split
    · exact flagOf_condOf _
    · rfl

/-! ### The input services, by the answer of their request -/

section

variable {u : Unfinished} {echo : Byte → List OutEvent} {s t : State}

theorem BlockingRead.eq_of_byte (h : BlockingRead u echo s t) {b : Byte} {rest : List InEvent}
    (hin : inRead s.input = .byte b rest) : t = ((s.setInput rest).emit (echo b)).putChar b := by
  cases h with
  | byte b' rest' hin' =>
    cases hin'.symm.trans hin
    rfl
  | waiting _ hin' | error hin' => cases hin'.symm.trans hin

theorem BlockingRead.eq_of_waiting (h : BlockingRead u echo s t) {rest : List InEvent}
    (hin : inRead s.input = .waiting rest) : t = (s.setInput rest).suspend u := by
  cases h with
  | waiting rest' hin' =>
    cases hin'.symm.trans hin
    rfl
  | byte _ _ hin' | error hin' => cases hin'.symm.trans hin

theorem BlockingRead.eq_of_error (h : BlockingRead u echo s t) (hin : inRead s.input = .error) :
    t = s.raise .inputError s.ir := by
  cases h with
  | error => rfl
  | byte _ _ hin' | waiting _ hin' => cases hin'.symm.trans hin

end

/-- What IN has sent when it asks for its byte: the prompt, then a flush (R160; logs 8, 18). -/
def State.prompted (s : State) : List OutEvent := s.output ++ config.inPrompt.map OutEvent.byte ++ [OutEvent.flush]

theorem exec_getc (s : State) :
    ∃ t, exec .getc s = .next t ∧ BlockingRead .getc (fun _ => []) (s.serving s.input s.output) t :=
  ⟨_, rfl, getcRead_blockingRead s.link⟩

theorem exec_inChar (s : State) :
    ∃ t, exec .inChar s = .next t ∧ BlockingRead .inChar (fun b => [.byte b, .flush]) (s.serving s.input s.prompted) t :=
  ⟨_, rfl, inCharRead_blockingRead (s.serving s.input s.prompted)⟩

/-- Settles O29: the blocking read, by its answer, in the linked machine. -/
theorem getcTakesOneByteIntoR0 : Obligations.GetcTakesOneByteIntoR0 := by
  intro s
  obtain ⟨t, hexec, hread⟩ := exec_getc s
  refine ⟨fun b rest hin => ?_, fun rest hin => ?_, fun hin => ?_⟩
  · obtain rfl := hread.eq_of_byte hin
    rw [State.emit_nil] at hexec
    exact ⟨_, hexec, State.serving_putChar rfl⟩
  · obtain rfl := hread.eq_of_waiting hin
    exact ⟨_, hexec, rfl, s.link_reg_seven, s.link_sameRegsBut, rfl, rfl, fun _ => rfl, rfl, rfl,
      rfl, rfl, rfl, rfl⟩
  · obtain rfl := hread.eq_of_error hin
    exact ⟨_, hexec, rfl, s.link_reg_seven, s.link_sameRegsBut, rfl, rfl, fun _ => rfl,
      ⟨rfl, rfl⟩, rfl, rfl, rfl, rfl⟩

/-- Settles O31: GETC's read, after the prompt and with the echo. -/
theorem inPromptsTakesAndEchoesOneByte : Obligations.InPromptsTakesAndEchoesOneByte := by
  intro s
  obtain ⟨t, hexec, hread⟩ := exec_inChar s
  refine ⟨fun b rest hin => ?_, fun rest hin => ?_, fun hin => ?_⟩
  · obtain rfl := hread.eq_of_byte hin
    have hecho : ((s.serving s.input s.prompted).setInput rest).emit [.byte b, .flush] =
        s.serving rest (s.output ++ config.inPrompt.map OutEvent.byte ++ [OutEvent.flush, .byte b, .flush]) :=
      congrArg (s.serving rest) (List.append_assoc _ _ _)
    rw [hecho] at hexec
    exact ⟨_, hexec, State.serving_putChar rfl⟩
  · obtain rfl := hread.eq_of_waiting hin
    exact ⟨_, hexec, rfl, s.link_reg_seven, s.link_sameRegsBut, rfl, rfl, fun _ => rfl, rfl, rfl,
      rfl, rfl, rfl, rfl⟩
  · obtain rfl := hread.eq_of_error hin
    exact ⟨_, hexec, rfl, s.link_reg_seven, s.link_sameRegsBut, rfl, rfl, fun _ => rfl, rfl,
      rfl, rfl, rfl, rfl, rfl⟩

/-! ### OUT and the two stops -/

theorem lowByte_eq_ofNat_mod (w : Word) : lowByte w = BitVec.ofNat 8 (w.toNat % 256) := by
  refine BitVec.eq_of_toNat_eq ?_
  simp [lowByte]

theorem exec_out (s : State) :
    exec .out s = .next (s.serving s.input (s.output ++ [OutEvent.byte (lowByte (s.reg 0#3))])) := by
  rw [← State.link_reg_zero]
  rfl

/-- Settles O30. -/
theorem outSendsTheLowByteOfR0 : Obligations.OutSendsTheLowByteOfR0 := by
  intro s
  have hexec := exec_out s
  rw [lowByte_eq_ofNat_mod] at hexec
  obtain ⟨hlink, hregs, hpc, hcond, hmem, hin, hcontrol⟩ := State.serving_frame (s := s) rfl
  exact ⟨_, hexec, hlink, hregs, hpc, hcond, hmem, hin, rfl, hcontrol⟩

/-- Settles O36, by whether HALT links (log 6). -/
theorem haltFlushesAndStops : Obligations.HaltFlushesAndStops := by
  intro s
  by_cases hlinks : config.haltLinks = true
  · have hexec : exec .halt s = .next (s.link.outFlush.raise .haltTrap s.ir) := by
      rw [exec, execHalt, if_pos hlinks]
    refine ⟨_, hexec, rfl, rfl, rfl, ?_, rfl, rfl, fun _ => rfl, rfl, rfl, rfl, rfl⟩
    rw [if_pos hlinks]
    exact ⟨s.link_reg_seven, s.link_sameRegsBut⟩
  · have hexec : exec .halt s = .next (s.outFlush.raise .haltTrap s.ir) := by
      rw [exec, execHalt, if_neg hlinks]
    refine ⟨_, hexec, rfl, rfl, rfl, ?_, rfl, rfl, fun _ => rfl, rfl, rfl, rfl, rfl⟩
    rw [if_neg hlinks]
    exact fun _ => rfl

/-- Settles O37: the whole effect of an unknown vector is the raise. -/
theorem unknownVectorStopsWithoutALink : Obligations.UnknownVectorStopsWithoutALink :=
  fun _ s _ => ⟨_, rfl, stopsWith_raise .invalidTrapVector s.ir s⟩

end Sys2Proof.Machine
end

section
/-! PROOF. O34, O35, O32, O33: the string scans of PUTS and PUTSP (44_trap.md R159, R161; log 15). Both are one loop over the
cells of memory that differs in what a cell sends and in which cells end it. `n` rounds of the loop of the rule are `n` cells
of the model's loop, so that a scan is as many whole passes as it has, and then the pass it ends in. -/

namespace Sys2Proof.Machine

open Sys2Proof.Claims

/-! ### The two string services as one loop -/

/-- The two services that send a string of memory cells. -/
inductive StringService where
  | puts | putsp

namespace StringService

def instr : StringService → Instr
  | puts => .puts
  | putsp => .putsp

/-- The scan still to do from a cell. -/
def rest : StringService → Word → Unfinished
  | puts => .puts
  | putsp => .putsp

/-- The model's loop of the service. -/
def loop : StringService → Nat → Word → State → State
  | puts => putsLoop
  | putsp => putspLoop

/-- Whether a cell with this word ends the string (R159, R161; log 24). -/
def ends : StringService → Word → Bool
  | puts, w => decide (w = 0#16)
  | putsp, w => decide (highByte w = 0#8)

/-- The characters of a cell, as they are sent (R159, R161; log 24). -/
def chars : StringService → Word → List OutEvent
  | puts, w => if w = 0#16 then [] else [.byte (lowByte w)]
  | putsp, w =>
    if w = 0#16 then []
    else if highByte w = 0#8 then [.byte (lowByte w)]
    else [.byte (lowByte w), .byte (highByte w)]

theorem highByte_zero : highByte 0#16 = 0#8 := by decide

theorem ne_zero_of_highByte {w : Word} (h : highByte w ≠ 0#8) : w ≠ 0#16 := fun h0 => h (h0 ▸ highByte_zero)

theorem chars_zero (f : StringService) : f.chars 0#16 = [] := by
  cases f <;> rfl

theorem chars_puts {w : Word} (h : w ≠ 0#16) : puts.chars w = [.byte (lowByte w)] := if_neg h

theorem chars_putsp {w : Word} (h : highByte w ≠ 0#8) : putsp.chars w = [.byte (lowByte w), .byte (highByte w)] := by
  rw [chars, if_neg (ne_zero_of_highByte h), if_neg h]

section

variable {f : StringService} {a b : Word} {s t u : State}

theorem loop_zero : f.loop 0 a s = s.suspend (f.rest a) := by
  cases f <;> rfl

/-- One cell of the loop: its characters, then a flush if it ends the string. -/
theorem loop_succ (k : Nat) :
    f.loop (k + 1) a s = (memRead a s).after fun w t =>
      if f.ends w then (t.emit (f.chars w)).outFlush else f.loop k (a + 1#16) (t.emit (f.chars w)) := by
  cases f with
  | puts =>
    refine congrArg (memRead a s).after (funext fun w => funext fun t => ?_)
    by_cases hw : w = 0#16
    · simp only [ends, chars, hw, decide_true, if_true, State.emit_nil]
    · simp only [ends, chars, hw, decide_false, if_false, Bool.false_eq_true]
      rfl
  | putsp =>
    refine congrArg (memRead a s).after (funext fun w => funext fun t => ?_)
    by_cases hw : w = 0#16
    · simp only [ends, chars, hw, highByte_zero, decide_true, if_true, State.emit_nil]
    · by_cases hhigh : highByte w = 0#8
      · simp only [ends, chars, hw, hhigh, decide_true, if_true, if_false]
        rfl
      · simp only [ends, chars, hw, hhigh, decide_false, if_false, Bool.false_eq_true, State.outByte, State.emit_emit]
        rfl

theorem loop_succ_of_end {w : Word} (hread : memRead a s = .ok w t) (hend : f.ends w = true) (k : Nat) :
    f.loop (k + 1) a s = (t.emit (f.chars w)).outFlush := by
  rw [loop_succ, after_memRead_of_ok hread, if_pos hend]

theorem loop_succ_of_more {w : Word} (hread : memRead a s = .ok w t) (hmore : f.ends w = false) (k : Nat) :
    f.loop (k + 1) a s = f.loop k (a + 1#16) (t.emit (f.chars w)) := by
  rw [loop_succ, after_memRead_of_ok hread, if_neg (by simp [hmore])]

theorem loop_succ_of_stop (hread : memRead a s = .stop t) (k : Nat) : f.loop (k + 1) a s = t := by
  rw [loop_succ, hread]
  rfl

/-- The TRAP begins the loop at R0, once R7 is linked (R155). -/
theorem exec_instr : exec f.instr s = .next (f.loop scanPass (s.reg 0) s.link) := by
  have hzero : s.link.reg 0 = s.reg 0 := s.link_reg_zero
  rw [← hzero]
  cases f <;> rfl

/-- An unfinished scan goes on with one more pass (R112). -/
theorem step_rest (hrun : s.run = .running) (hwait : s.wait = some (f.rest a)) :
    step s = .next (f.loop scanPass a s.takeUp) := by
  rw [step_resume hrun hwait]
  cases f <;> rfl

/-! ### Rounds of the loop of the rule -/

/-- `n` rounds of the service's loop, from cell `a` in `s` to cell `b` in `u`, none of them the last: the statements'
`PutsRunsOn` and `PutspRunsOn`. -/
inductive RunsOn (f : StringService) : Nat → Word → State → Word → State → Prop
  | here (a : Word) (s : State) : RunsOn f 0 a s a s
  | more (n : Nat) (a w b : Word) (s t u : State) : memRead a s = .ok w t → f.ends w = false →
      RunsOn f n (a + 1#16) (t.emit (f.chars w)) b u → RunsOn f (n + 1) a s b u

theorem runsOn_of_putsRunsOn {n : Nat} (h : PutsRunsOn n a s b u) : puts.RunsOn n a s b u := by
  induction h with
  | here a s => exact .here a s
  | more n a w b s t u hread hw _ ih =>
    refine .more n a w b s t u hread (decide_eq_false hw) ?_
    rwa [chars_puts hw]

theorem runsOn_of_putspRunsOn {n : Nat} (h : PutspRunsOn n a s b u) : putsp.RunsOn n a s b u := by
  induction h with
  | here a s => exact .here a s
  | more n a w b s t u hread hhigh _ ih =>
    refine .more n a w b s t u hread (decide_eq_false hhigh) ?_
    rw [State.outByte, State.outByte, State.emit_emit] at ih
    rwa [chars_putsp hhigh]

/-- A scan that ends in `u` runs on for some rounds to a cell at which the model's loop comes to `u`. -/
def EndsIn (f : StringService) (a : Word) (s u : State) : Prop :=
  ∃ n b t, f.RunsOn n a s b t ∧ ∀ k, f.loop (k + 1) b t = u

theorem EndsIn.of_loop (h : ∀ k, f.loop (k + 1) a s = u) : f.EndsIn a s u := ⟨0, a, s, .here a s, h⟩

theorem EndsIn.more {w : Word} (hread : memRead a s = .ok w t) (hmore : f.ends w = false)
    (h : f.EndsIn (a + 1#16) (t.emit (f.chars w)) u) : f.EndsIn a s u := by
  obtain ⟨n, b, v, hruns, hlast⟩ := h
  exact ⟨n + 1, b, v, .more n a w b s t v hread hmore hruns, hlast⟩

theorem endsIn_of_putsScan (h : PutsScan a s u) : puts.EndsIn a s u := by
  induction h with
  | done a s t hread =>
    refine .of_loop fun k => ?_
    rw [loop_succ_of_end (f := puts) hread rfl, chars_zero, State.emit_nil]
  | more a w s t u hread hw _ ih =>
    refine .more hread (decide_eq_false hw) ?_
    rwa [chars_puts hw]
  | fails a s t hread => exact .of_loop (loop_succ_of_stop hread)

theorem endsIn_of_putspScan (h : PutspScan a s u) : putsp.EndsIn a s u := by
  induction h with
  | done a s t hread =>
    refine .of_loop fun k => ?_
    rw [loop_succ_of_end (f := putsp) hread (decide_eq_true highByte_zero), chars_zero, State.emit_nil]
  | half a w s t hread hw hhigh =>
    refine .of_loop fun k => ?_
    rw [loop_succ_of_end (f := putsp) hread (decide_eq_true hhigh), chars, if_neg hw, if_pos hhigh]
    rfl
  | more a w s t u hread hw hhigh _ ih =>
    refine .more hread (decide_eq_false hhigh) ?_
    rw [State.outByte, State.outByte, State.emit_emit] at ih
    rwa [chars_putsp hhigh]
  | fails a s t hread => exact .of_loop (loop_succ_of_stop hread)

/-- A round that is not the last sends something. -/
theorem length_chars_pos {w : Word} (h : f.ends w = false) : 1 ≤ (f.chars w).length := by
  cases f with
  | puts =>
    rw [chars_puts (of_decide_eq_false h)]
    exact Nat.le_refl 1
  | putsp =>
    rw [chars_putsp (of_decide_eq_false h)]
    exact Nat.le_succ 1

/-- Rounds leave the machine RUNNING inside its TRAP, with a byte sent for every cell. -/
theorem RunsOn.unended {n : Nat} (h : f.RunsOn n a s b u) (hrun : s.run = .running) : Unended s n u := by
  induction h with
  | here a s => exact ⟨hrun, Nat.le_refl _, rfl, rfl⟩
  | more n a w b s t u hread hmore _ ih =>
    obtain ⟨hframe, hrun', hout, -⟩ := memRead_ok hread
    obtain ⟨hu, hlength, hpc, hcond⟩ := ih (hrun'.trans hrun)
    have hchars := length_chars_pos hmore
    rw [State.emit_output, List.length_append, hout] at hlength
    exact ⟨hu, by omega, hpc.trans hframe.pc, hcond.trans hframe.cond⟩

theorem RunsOn.wait_eq {n : Nat} (h : f.RunsOn n a s b u) : u.wait = s.wait := by
  induction h with
  | here => rfl
  | more n a w b s t u hread _ _ ih =>
    obtain ⟨-, -, -, hwait, -⟩ := memRead_ok hread
    exact ih.trans hwait

/-- `m + n` rounds are `m` rounds and then `n`. -/
theorem RunsOn.split {m n : Nat} (h : f.RunsOn (m + n) a s b u) :
    ∃ c t, f.RunsOn m a s c t ∧ f.RunsOn n c t b u := by
  induction m generalizing a s with
  | zero =>
    rw [Nat.zero_add] at h
    exact ⟨a, s, .here a s, h⟩
  | succ m ih =>
    rw [Nat.succ_add] at h
    cases h with
    | more _ _ w _ _ t _ hread hmore hrest =>
      obtain ⟨c, v, hfirst, hlast⟩ := ih hrest
      exact ⟨c, v, .more m a w c s t v hread hmore hfirst, hlast⟩

/-! ### Rounds of the rule and passes of the model -/

/-- Rounds of the rule are cells of the model's loop. -/
theorem RunsOn.loop_add {n : Nat} (h : f.RunsOn n a s b u) (k : Nat) : f.loop (n + k) a s = f.loop k b u := by
  induction h with
  | here => rw [Nat.zero_add]
  | more n a w b s t u hread hmore _ ih => rw [Nat.succ_add, loop_succ_of_more hread hmore, ih]

/-- A whole pass leaves the scan unfinished. -/
theorem RunsOn.loop_eq {n : Nat} (h : f.RunsOn n a s b u) : f.loop n a s = u.suspend (f.rest b) :=
  (h.loop_add 0).trans loop_zero

/-- `k` further steps after a pass take the scan `k` passes further. -/
theorem RunsOn.runSteps_loop {k : Nat} (h : f.RunsOn (scanPass * k) a s b u) (hrun : s.run = .running)
    (hwait : s.wait = none) :
    runSteps k (f.loop scanPass a s) = some (f.loop scanPass b u) := by
  induction k generalizing a s with
  | zero =>
    cases h
    rfl
  | succ k ih =>
    rw [Nat.mul_succ, Nat.add_comm] at h
    obtain ⟨c, t, hpass, hlater⟩ := h.split
    obtain ⟨hrun', -⟩ := hpass.unended hrun
    have hwait' : t.wait = none := hpass.wait_eq.trans hwait
    have hstep : step (f.loop scanPass a s) = .next (f.loop scanPass c t) := by
      rw [hpass.loop_eq, step_rest (s := t.suspend (f.rest c)) hrun' rfl, State.takeUp_suspend t _ hwait']
    rw [runSteps, hstep]
    exact ih hlater hrun' hwait'

/-- The passes before the last, and the one in which the scan ends. -/
theorem EndsIn.exists_runSteps (h : f.EndsIn a s u) (hrun : s.run = .running) (hwait : s.wait = none) :
    ∃ k, runSteps k (f.loop scanPass a s) = some u := by
  obtain ⟨n, b, t, hruns, hlast⟩ := h
  rw [← Nat.div_add_mod n scanPass] at hruns
  obtain ⟨c, v, hpasses, hrounds⟩ := hruns.split
  have hlt : n % scanPass < scanPass := Nat.mod_lt n (by decide)
  obtain ⟨j, hj⟩ : ∃ j, scanPass = n % scanPass + (j + 1) := Nat.exists_eq_add_of_lt hlt
  have hend : f.loop scanPass c v = u := by
    rw [hj, hrounds.loop_add, hlast]
  exact ⟨n / scanPass, (hpasses.runSteps_loop hrun hwait).trans (congrArg some hend)⟩

/-! ### A string whose cells do not poll -/

/-- The characters of the first `n` cells of the string at `a`. -/
def text (f : StringService) (s : State) (a : Word) (n : Nat) : List OutEvent :=
  (List.range n).flatMap fun k => f.chars (nth s a k)

/-- `n` cells that neither poll nor end the string: their characters are sent. -/
theorem loop_add_of_text {n : Nat} (hmore : ∀ k, k < n → f.ends (nth s a k) = false)
    (hpoll : ∀ k, k < n → a + BitVec.ofNat 16 k ≠ config.kbsrAddr) (k : Nat) :
    f.loop (n + k) a s = f.loop k (a + BitVec.ofNat 16 n) (s.emit (f.text s a n)) := by
  induction n generalizing k with
  | zero => rw [text, List.range_zero, List.flatMap_nil, State.emit_nil, BitVec.add_zero, Nat.zero_add]
  | succ n ih =>
    have hread : memRead (a + BitVec.ofNat 16 n) (s.emit (f.text s a n)) = .ok (nth s a n) (s.emit (f.text s a n)) :=
      memRead_ordinary _ _ (hpoll n (Nat.lt_succ_self n))
    rw [Nat.succ_add, ← Nat.add_succ, ih (fun k hk => hmore k (by omega)) (fun k hk => hpoll k (by omega)),
      loop_succ_of_more hread (hmore n (Nat.lt_succ_self n)), State.emit_emit, BitVec.add_assoc, ← BitVec.ofNat_add,
      text, text, List.range_succ, List.flatMap_append, List.flatMap_singleton]

/-- The service on a string that ends at its cell `n`, within one pass, no cell of it at KBSR. -/
theorem exec_of_text {n : Nat} (hn : n < 65536) (hmore : ∀ k, k < n → f.ends (nth s (s.reg 0) k) = false)
    (hend : f.ends (nth s (s.reg 0) n) = true)
    (hpoll : ∀ k, k ≤ n → s.reg 0 + BitVec.ofNat 16 k ≠ config.kbsrAddr) :
    exec f.instr s =
      .next (s.serving s.input (s.output ++ f.text s (s.reg 0) n ++ f.chars (nth s (s.reg 0) n) ++ [OutEvent.flush])) := by
  obtain ⟨j, hj⟩ : ∃ j, scanPass = n + (j + 1) := Nat.exists_eq_add_of_lt hn
  have hread : memRead (s.reg 0 + BitVec.ofNat 16 n) (s.link.emit (f.text s (s.reg 0) n)) =
      .ok (nth s (s.reg 0) n) (s.link.emit (f.text s (s.reg 0) n)) :=
    memRead_ordinary _ _ (hpoll n (Nat.le_refl n))
  have htext : f.loop (n + (j + 1)) (s.reg 0) s.link =
      f.loop (j + 1) (s.reg 0 + BitVec.ofNat 16 n) (s.link.emit (f.text s (s.reg 0) n)) :=
    loop_add_of_text (s := s.link) hmore (fun k hk => hpoll k (Nat.le_of_lt hk)) (j + 1)
  rw [exec_instr, hj]
  exact congrArg Host.Outcome.next (htext.trans (loop_succ_of_end hread hend j))

end

end StringService

/-! ### The obligations -/

open StringService

/-- Settles O34: the rounds before the last cut into passes. -/
theorem stringScansRunToTheirEnd : Obligations.StringScansRunToTheirEnd := by
  intro s u hrun hwait
  have hends (f : StringService) (h : f.EndsIn (s.reg 0) s.link u) :
      ∃ t k, exec f.instr s = .next t ∧ runSteps k t = some u := by
    obtain ⟨k, hk⟩ := h.exists_runSteps hrun hwait
    exact ⟨_, k, exec_instr, hk⟩
  exact ⟨fun h => hends puts (endsIn_of_putsScan h), fun h => hends putsp (endsIn_of_putspScan h)⟩

/-- Settles O35: whole passes leave the scan unfinished, and rounds leave the machine RUNNING. -/
theorem scanWithNoTerminatorStaysRunning : Obligations.ScanWithNoTerminatorStaysRunning := by
  intro s a b k u hrun
  have hresumed (f : StringService) (hwait : s.wait = some (f.rest a)) (h : f.RunsOn scanPass a s.takeUp b u) :
      step s = .next (u.suspend (f.rest b)) ∧ Unended s scanPass u := by
    rw [step_rest hrun hwait, h.loop_eq]
    exact ⟨rfl, h.unended hrun⟩
  refine ⟨fun hwait h => ?_, fun hwait h => hresumed puts hwait (runsOn_of_putsRunsOn h), fun _ h => ?_,
    fun hwait h => hresumed putsp hwait (runsOn_of_putspRunsOn h)⟩
  · have hruns : puts.RunsOn (scanPass * k + scanPass) (s.reg 0) s.link b u := runsOn_of_putsRunsOn h
    obtain ⟨c, t, hpasses, hlast⟩ := hruns.split
    refine ⟨_, exec_instr (f := puts), ?_, hruns.unended hrun⟩
    rw [hpasses.runSteps_loop hrun hwait, hlast.loop_eq]
    rfl
  · have hruns : putsp.RunsOn scanPass (s.reg 0) s.link b u := runsOn_of_putspRunsOn h
    exact ⟨exec_instr.trans (congrArg Host.Outcome.next hruns.loop_eq), hruns.unended hrun⟩

/-- Settles O32: a cell that is not zero has one character, its low byte, and the last cell has none. -/
theorem putsSendsTheStringAtR0 : Obligations.PutsSendsTheStringAtR0 := by
  intro s n hn hmore hend hpoll
  have hexec := exec_of_text (f := puts) hn (fun k hk => decide_eq_false (hmore k hk)) (decide_eq_true hend) hpoll
  have htext : puts.text s (s.reg 0) n = (List.range n).map fun k => .byte (lowByte (nth s (s.reg 0) k)) := by
    rw [List.map_eq_flatMap]
    exact List.flatMap_congr fun k hk => chars_puts (hmore k (List.mem_range.mp hk))
  have hlast : puts.chars (nth s (s.reg 0) n) = [] := if_pos hend
  rw [htext, hlast, List.append_nil] at hexec
  exact ⟨_, hexec, rfl, State.serving_frame rfl⟩

/-- Settles O33: a cell whose high byte is not zero has two characters, and the last cell at most its low byte. -/
theorem putspSendsThePackedStringAtR0 : Obligations.PutspSendsThePackedStringAtR0 := by
  intro s n hn hmore hend hpoll
  have hexec := exec_of_text (f := putsp) hn (fun k hk => decide_eq_false (hmore k hk)) (decide_eq_true hend) hpoll
  have htext : putsp.text s (s.reg 0) n = (List.range n).flatMap fun k =>
      [.byte (lowByte (nth s (s.reg 0) k)), .byte (highByte (nth s (s.reg 0) k))] :=
    List.flatMap_congr fun k hk => chars_putsp (hmore k (List.mem_range.mp hk))
  have hlast : putsp.chars (nth s (s.reg 0) n) =
      if nth s (s.reg 0) n = 0#16 then [] else [.byte (lowByte (nth s (s.reg 0) n))] := by
    rw [chars, if_pos hend]
  rw [htext, hlast] at hexec
  exact ⟨_, hexec, rfl, State.serving_frame rfl⟩

end Sys2Proof.Machine
end

section
/-! PROOF. O38: the reserved opcodes RTI and RES (60_exceptions.md R181, R182). -/

namespace Sys2Proof.Machine

open Sys2Proof.Claims

/-- Settles O38: both opcodes are the decode error ReservedOpcode, and the whole effect of a decode error is the raise. -/
theorem reservedOpcodesStop : Obligations.ReservedOpcodesStop := by
  intro s
  have hstop (i : Instr) (hreserved : classify i = .decodeError .reservedOpcode) :
      ∃ t, exec i s = .next t ∧ StopsWith .reservedOpcode s.ir s t :=
    ⟨_, exec_of_decodeError hreserved s, stopsWith_raise _ _ s⟩
  exact ⟨hstop .rti rfl, hstop .res rfl⟩

end Sys2Proof.Machine
end

section
/-! PROOF. O42: HALTED is terminal (70_reset_and_hazards.md R205). A run from a fixed point of the step stays there. -/

namespace Sys2Proof.Machine

open Sys2Proof.Claims

theorem runSteps_of_step_eq_self {s : State} (h : step s = .next s) (k : Nat) : runSteps k s = some s := by
  induction k with
  | zero => rfl
  | succ k ih =>
    rw [runSteps, h]
    exact ih

/-- Settles O42: a HALTED state is a fixed point of the step. -/
theorem haltedIsTerminal : Obligations.HaltedIsTerminal := by
  intro s c info hrun k
  exact runSteps_of_step_eq_self (step_halted hrun) k

end Sys2Proof.Machine
end
